-- ==== Sys2Proof/Word.lean ====
section
/-! DEFINITION. The widths of the hardware's words (00_scope.md R8; 30_encoding.md R65). -/

namespace Sys2Proof

/-- The unit of transfer on the bus (20_memory.md R52). -/
abbrev Byte := BitVec 8

/-- Coordinates, extents, colours and address values (00_scope.md R8). -/
abbrev Word16 := BitVec 16

/-- An opaque line identifier (00_scope.md R8). -/
abbrev LineId := BitVec 16

/-- A bit rate (00_scope.md R8). -/
abbrev BitRate := BitVec 32

/-- A request word `q` (30_encoding.md R65). -/
abbrev RequestWord := BitVec 96

end Sys2Proof
end

