-- ==== Sys2Proof/Config.lean ====
section
/-! DEFINITION. The parameters of the step relation (00_scope.md R7; 10_state.md R40), as a type: a
machine's parameter table is the read-only field `par` of its state, so a statement about every state is one
about every table. Then the spec's OPEN parameters, as constants without a body. -/

namespace Sys2Proof

/-- A line level: 0 (low) or 1 (high) (00_scope.md R14). -/
inductive Level where
  | low
  | high
  deriving DecidableEq, Repr

/-- OFF or ON (44_controller.md R142). -/
inductive OnOff where
  | off
  | on
  deriving DecidableEq, Repr

/-- The ten commands the block emits (30_encoding.md R76). -/
inductive Cmd where
  | swreset
  | slpout
  | colmod
  | madctl
  | invoff
  | invon
  | dispon
  | caset
  | raset
  | ramwr
  deriving DecidableEq, Repr

/-- The command byte of each command: `CMD_*` of 30_encoding.md R76. -/
structure CmdTable where
  swreset : Byte
  slpout : Byte
  colmod : Byte
  madctl : Byte
  invoff : Byte
  invon : Byte
  dispon : Byte
  caset : Byte
  raset : Byte
  ramwr : Byte
  deriving DecidableEq, Repr

/-- The parameter table of 00_scope.md R7, with the observer's thresholds of 44_controller.md R161. -/
structure Params where
  /-- `CS_ACTIVE`. -/
  csActive : Level
  /-- `CMD_SWRESET` to `CMD_RAMWR`. -/
  cmds : CmdTable
  /-- `COLMOD_16BPP`. -/
  colmod16bpp : Byte
  /-- `MADCTL_NORMAL`. -/
  madctlNormal : Byte
  /-- `T_PWR`, in ms. -/
  tPwr : Nat
  /-- `T_RSTLO`, in ms. -/
  tRstLo : Nat
  /-- `T_RSTREC`, in ms. -/
  tRstRec : Nat
  /-- `T_SWRESET`, in ms. -/
  tSwReset : Nat
  /-- `T_SLPOUT`, in ms. -/
  tSlpOut : Nat
  /-- `T_DISPON`, in ms. -/
  tDispOn : Nat
  /-- `OBS_T_RSTLO`, in ms. -/
  obsRstLo : Nat
  /-- `OBS_T_RSTREC`, in ms. -/
  obsRstRec : Nat
  /-- `OBS_T_SWRESET`, in ms. -/
  obsSwReset : Nat
  /-- `OBS_T_SLPOUT`, in ms. -/
  obsSlpOut : Nat
  /-- `OBS_T_DISPON`, in ms. -/
  obsDispOn : Nat
  deriving DecidableEq, Repr

/-- A colour's three components, 5, 6 and 5 bits (41_framer.md R117). -/
structure Rgb565 where
  red : BitVec 5
  green : BitVec 6
  blue : BitVec 5
  deriving DecidableEq, Repr, Inhabited

/-- `VISIBLE`, OPEN (44_controller.md R163): what a panel shows of a frame memory value under an inversion
state. No body: nothing can be proved of its values. Log 23. -/
opaque Config.visible : OnOff → Word16 → Rgb565

/-- `BUS_RATES`, OPEN (92_eei_decisions.md D26): the nonzero rates the bus and controller accept. The block
does not check them. Log 22. -/
opaque Config.busRates : BitRate → Bool

/-- `BUS_MODE`, OPEN (92_eei_decisions.md D23): the wire form of a byte, the first of them the first on the
wire. No rule reads it. Log 22. -/
opaque Config.busMode : Byte → List Bool

end Sys2Proof
end

