-- ==== Sys2Proof/Machine/Bits.lean ====
section
/-! DEFINITION. Byte order, bit fields, and the fixed constants and default parameters of the hardware. -/

namespace Sys2Proof

/-- `v[15:8]` (00_scope.md R9). -/
def hiByte (v : Word16) : Byte := v.extractLsb' 8 8

/-- `v[7:0]`. -/
def loByte (v : Word16) : Byte := v.extractLsb' 0 8

/-- `{h, l}`, `h` in the high part (00_scope.md R9). -/
def join16 (h l : Byte) : Word16 := h ++ l

/-- `ENC16(v) = [v[15:8], v[7:0]]` (41_framer.md R118). -/
def enc16 (v : Word16) : List Byte := [hiByte v, loByte v]

/-- `ENCPAIR(s, e) = ENC16(s) ++ ENC16(e)` (41_framer.md R118). -/
def encPair (s e : Word16) : List Byte := enc16 s ++ enc16 e

/-- The colour layout of 41_framer.md R117: red `[15:11]`, green `[10:5]`, blue `[4:0]`. -/
def rgb565 (c : Word16) : Rgb565 :=
  { red := c.extractLsb' 11 5, green := c.extractLsb' 5 6, blue := c.extractLsb' 0 5 }

/-- The other level (00_scope.md R14: `CS_OFF = 1 - CS_ACTIVE`). -/
def Level.flip : Level → Level
  | .low => .high
  | .high => .low

/-- `WIDTH` (00_scope.md R6). -/
def panelWidth : Nat := 240

/-- `HEIGHT` (00_scope.md R6). -/
def panelHeight : Nat := 320

/-- `BIT_RATE_DEFAULT` (00_scope.md R7; 30_encoding.md R83). -/
def bitRateDefault : Nat := 32000000

/-- The command byte of a command (30_encoding.md R76). -/
def CmdTable.byteOf (t : CmdTable) : Cmd → Byte
  | .swreset => t.swreset
  | .slpout => t.slpout
  | .colmod => t.colmod
  | .madctl => t.madctl
  | .invoff => t.invoff
  | .invon => t.invon
  | .dispon => t.dispon
  | .caset => t.caset
  | .raset => t.raset
  | .ramwr => t.ramwr

/-- The ten commands (30_encoding.md R76). -/
def allCmds : List Cmd :=
  [.swreset, .slpout, .colmod, .madctl, .invoff, .invon, .dispon, .caset, .raset, .ramwr]

/-- The command a byte names; none for a byte outside the table (44_controller.md R141). A byte that names two
commands names none: a table whose bytes are not distinct has no observer meaning (92_eei_decisions.md D35), and
that its other bytes keep theirs is a DESIGN CHOICE. Log 33. -/
def CmdTable.cmdOf (t : CmdTable) (b : Byte) : Option Cmd :=
  match allCmds.filter fun c => t.byteOf c == b with
  | [c] => some c
  | _ => none

/-- `nparams` of 44_controller.md R143. -/
def nparams : Cmd → Nat
  | .colmod => 1
  | .madctl => 1
  | .caset => 4
  | .raset => 4
  | .swreset => 0
  | .slpout => 0
  | .invoff => 0
  | .invon => 0
  | .dispon => 0
  | .ramwr => 0

/-- The default command bytes of 30_encoding.md R76. PRESUMED (the spec's own mark: from general knowledge,
the MIPI Display Command Set). Log 5. -/
def defaultCmds : CmdTable :=
  { swreset := 0x01, slpout := 0x11, colmod := 0x3A, madctl := 0x36, invoff := 0x20,
    invon := 0x21, dispon := 0x29, caset := 0x2A, raset := 0x2B, ramwr := 0x2C }

/-- The parameter table at its defaults (00_scope.md R7; 44_controller.md R161), the table `P_PARAMS` of
70_reset_and_hazards.md R202 names. Chip-select level, command bytes and payloads PRESUMED. Log 5. -/
def defaultParams : Params :=
  { csActive := .low, cmds := defaultCmds, colmod16bpp := 0x55, madctlNormal := 0x00,
    tPwr := 100, tRstLo := 100, tRstRec := 100, tSwReset := 150, tSlpOut := 120, tDispOn := 100,
    obsRstLo := 100, obsRstRec := 100, obsSwReset := 120, obsSlpOut := 120, obsDispOn := 100 }

end Sys2Proof
end

