-- ==== Sys2Proof/Syntax.lean ====
section
/-! DEFINITION. The instructions: one constructor for each row of spec/opcode_table.json. -/

namespace Sys2Proof

/-- Requests (30_encoding.md R64), micro-ops (30_encoding.md R71) and controller commands with the
parameters the block sends them (30_encoding.md R75). -/
inductive Instr where
  /-- Format REQ. CONSTRUCT (40_init.md R87). -/
  | construct (cs dc rst sck mosi : LineId) (invert : Bool)
  /-- INIT (40_init.md R88). -/
  | init (bitRate : BitRate)
  /-- FILL_SCREEN (43_drawing.md R133). -/
  | fillScreen (color : Word16)
  /-- FILL_RECT (43_drawing.md R126). -/
  | fillRect (x y w h color : Word16)
  /-- DRAW_PIXEL (43_drawing.md R135). -/
  | drawPixel (x y color : Word16)
  /-- Format MICRO. WRITE_COMMAND (41_framer.md R111). -/
  | writeCommand (b : Byte)
  /-- WRITE_DATA (41_framer.md R112). -/
  | writeData (b : Byte)
  /-- WRITE_DATA_BUF (41_framer.md R113). -/
  | writeDataBuf (bytes : List Byte)
  /-- SET_WINDOW (42_window.md R119). -/
  | setWindow (x0 y0 x1 y1 : Word16)
  /-- PIXEL_STREAM (43_drawing.md R129): `n` pixels of the two bytes `hi`, `lo`. -/
  | pixelStream (hi lo : Byte) (n : Nat)
  /-- Format CMD. SWRESET (44_controller.md R147). -/
  | swreset
  /-- SLPOUT (44_controller.md R148). -/
  | slpout
  /-- COLMOD (44_controller.md R149). -/
  | colmod (p : Byte)
  /-- MADCTL (44_controller.md R150). -/
  | madctl (p : Byte)
  /-- INVOFF (44_controller.md R151). -/
  | invoff
  /-- INVON (44_controller.md R152). -/
  | invon
  /-- DISPON (44_controller.md R153). -/
  | dispon
  /-- CASET (44_controller.md R154): first and last column. -/
  | caset (x0 x1 : Word16)
  /-- RASET (44_controller.md R155): first and last row. -/
  | raset (y0 y1 : Word16)
  /-- RAMWR (44_controller.md R156) with its pixel stream. -/
  | ramwr (pixels : List Word16)
  deriving DecidableEq, Repr

/-- What is presented to the machine, at one of the three levels of encoding (30_encoding.md R63). Only the
first is an input of the hardware; the other two let a micro-op or a command stand alone. Log 3. -/
inductive Presented where
  /-- One request word on the request port (30_encoding.md R65). -/
  | request (q : RequestWord)
  /-- One micro-op: its code, then its arguments (30_encoding.md R71). -/
  | micro (bytes : List Byte)
  /-- One command byte, sent with mode-select low, and the data bytes up to the next command byte
  (30_encoding.md R73). -/
  | command (code : Byte) (data : List Byte)
  deriving DecidableEq, Repr

end Sys2Proof
end

