-- ==== Sys2Proof/WellFormed.lean ====
section
/-! DEFINITION. Which instructions the encodings admit. -/

namespace Sys2Proof

/-- The largest list a WRITE_DATA_BUF encoding holds. The spec bounds it below only (41_framer.md R113); the
bound is that of the 24-bit count the model writes. Log 6. -/
def maxBuffer : Nat := 2 ^ 24

/-- The largest pixel count (43_drawing.md R129: `1 ≤ n ≤ 76,800`). -/
def maxPixels : Nat := 76800

/-- INIT takes a nonzero rate (40_init.md R88), WRITE_DATA_BUF one byte or more (41_framer.md R113) and
PIXEL_STREAM 1 to 76,800 pixels (43_drawing.md R129). SET_WINDOW's precondition is not one of them: the block
does not check it (42_window.md R119). -/
def Instr.wf : Instr → Bool
  | .construct _ _ _ _ _ _ => true
  | .init r => r != 0
  | .fillScreen _ => true
  | .fillRect _ _ _ _ _ => true
  | .drawPixel _ _ _ => true
  | .writeCommand _ => true
  | .writeData _ => true
  | .writeDataBuf bs => 1 ≤ bs.length && bs.length ≤ maxBuffer
  | .setWindow _ _ _ _ => true
  | .pixelStream _ _ n => 1 ≤ n && n ≤ maxPixels
  | .swreset => true
  | .slpout => true
  | .colmod _ => true
  | .madctl _ => true
  | .invoff => true
  | .invon => true
  | .dispon => true
  | .caset _ _ => true
  | .raset _ _ => true
  | .ramwr _ => true

end Sys2Proof
end

