-- ==== Sys2Proof/Decode.lean ====
section
/-! DEFINITION. The decoder, total at each of the three levels and rejecting by name, and after it the
encoder, from the same tables of 30_encoding.md. -/

namespace Sys2Proof

/-- Why nothing was decoded. -/
inductive DecodeError where
  /-- A request opcode `0x05` to `0xFF` (30_encoding.md R67, R85). -/
  | reservedOpcode
  /-- A bit set in a field that must be 0 (30_encoding.md R66, R85). -/
  | reservedBits
  /-- INIT with `bit_rate = 0` (30_encoding.md R85). -/
  | zeroBitRate
  /-- No micro-op: an unknown code, or arguments that do not fit it (30_encoding.md R71). Log 6. -/
  | badMicro
  deriving DecidableEq, Repr

/-- The six fields of a request word (30_encoding.md R65). -/
def reqOp (q : RequestWord) : Byte := q.extractLsb' 0 8

/-- `q[15:8]`. -/
def reqRsv (q : RequestWord) : Byte := q.extractLsb' 8 8

/-- `q[31:16]`. -/
def reqA (q : RequestWord) : Word16 := q.extractLsb' 16 16

/-- `q[47:32]`. -/
def reqB (q : RequestWord) : Word16 := q.extractLsb' 32 16

/-- `q[63:48]`. -/
def reqC (q : RequestWord) : Word16 := q.extractLsb' 48 16

/-- `q[79:64]`. -/
def reqD (q : RequestWord) : Word16 := q.extractLsb' 64 16

/-- `q[95:80]`. -/
def reqE (q : RequestWord) : Word16 := q.extractLsb' 80 16

/-- `decode(q)` of 30_encoding.md R85. -/
def decodeRequest (q : RequestWord) : Except DecodeError Instr :=
  if reqOp q = 0x00 then
    if reqRsv q >>> 1 ≠ 0 then .error .reservedBits
    else .ok (.construct (reqA q) (reqB q) (reqC q) (reqD q) (reqE q) ((reqRsv q).getLsbD 0))
  else if reqOp q = 0x01 then
    if reqRsv q ≠ 0 ∨ reqC q ≠ 0 ∨ reqD q ≠ 0 ∨ reqE q ≠ 0 then .error .reservedBits
    else if reqB q ++ reqA q = (0 : BitRate) then .error .zeroBitRate
    else .ok (.init (reqB q ++ reqA q))
  else if reqOp q = 0x02 then
    if reqRsv q ≠ 0 ∨ reqB q ≠ 0 ∨ reqC q ≠ 0 ∨ reqD q ≠ 0 ∨ reqE q ≠ 0 then .error .reservedBits
    else .ok (.fillScreen (reqA q))
  else if reqOp q = 0x03 then
    if reqRsv q ≠ 0 then .error .reservedBits
    else .ok (.fillRect (reqA q) (reqB q) (reqC q) (reqD q) (reqE q))
  else if reqOp q = 0x04 then
    if reqRsv q ≠ 0 ∨ reqD q ≠ 0 ∨ reqE q ≠ 0 then .error .reservedBits
    else .ok (.drawPixel (reqA q) (reqB q) (reqC q))
  else .error .reservedOpcode

/-- A count written as `count - 1` in 24 bits, high byte first. DESIGN CHOICE: the spec gives the arguments of
a micro-op no binary form. Log 6. -/
def countOf (c2 c1 c0 : Byte) : Nat := (c2 ++ c1 ++ c0 : BitVec 24).toNat + 1

/-- The micro-op of a code and its arguments (codes: 30_encoding.md R71; arguments: Log 6). -/
def decodeMicro : List Byte → Except DecodeError Instr
  | [] => .error .badMicro
  | code :: args =>
    if code = 0x10 then
      match args with
      | [b] => .ok (.writeCommand b)
      | _ => .error .badMicro
    else if code = 0x11 then
      match args with
      | [b] => .ok (.writeData b)
      | _ => .error .badMicro
    else if code = 0x12 then
      match args with
      | c2 :: c1 :: c0 :: bytes =>
        if bytes.length = countOf c2 c1 c0 then .ok (.writeDataBuf bytes) else .error .badMicro
      | _ => .error .badMicro
    else if code = 0x13 then
      match args with
      | [a, b, c, d, e, f, g, h] =>
        .ok (.setWindow (join16 a b) (join16 c d) (join16 e f) (join16 g h))
      | _ => .error .badMicro
    else if code = 0x14 then
      match args with
      | [hi, lo, c2, c1, c0] =>
        if countOf c2 c1 c0 ≤ maxPixels then .ok (.pixelStream hi lo (countOf c2 c1 c0))
        else .error .badMicro
      | _ => .error .badMicro
    else .error .badMicro

/-- The pixels of a byte stream, high byte first (20_memory.md R49); none for an odd byte. -/
def pixelsOf : List Byte → Option (List Word16)
  | [] => some []
  | [_] => none
  | h :: l :: rest => (pixelsOf rest).map (join16 h l :: ·)

/-- The command of the block that a command byte and its data bytes are, none for others (30_encoding.md R75,
R76). -/
def commandOf (t : CmdTable) (code : Byte) (data : List Byte) : Option Instr :=
  match t.cmdOf code, data with
  | some .swreset, [] => some .swreset
  | some .slpout, [] => some .slpout
  | some .colmod, [p] => some (.colmod p)
  | some .madctl, [p] => some (.madctl p)
  | some .invoff, [] => some .invoff
  | some .invon, [] => some .invon
  | some .dispon, [] => some .dispon
  | some .caset, [a, b, c, d] => some (.caset (join16 a b) (join16 c d))
  | some .raset, [a, b, c, d] => some (.raset (join16 a b) (join16 c d))
  | some .ramwr, bytes => (pixelsOf bytes).map .ramwr
  | _, _ => none

/-- A command byte and its data bytes, decoded. Where they are no command of the block, the byte is sent all the
same (41_framer.md R111: "any byte value is framed the same way") and the data bytes after it, by `leftover`:
what the controller makes of them is 44_controller.md R141, R159 and R160. Log 8. -/
def decodeCommand (t : CmdTable) (code : Byte) (data : List Byte) : Instr :=
  match commandOf t code data with
  | some i => i
  | none => .writeCommand code

/-- The decoder at all three levels. -/
def decode (t : CmdTable) : Presented → Except DecodeError Instr
  | .request q => decodeRequest q
  | .micro bytes => decodeMicro bytes
  | .command code data => .ok (decodeCommand t code data)

/-- What is still to be presented after the decoded instruction: the data bytes of a command byte sent by itself,
each in a data transaction of its own (30_encoding.md R73: "in any number of data transactions"). Log 8. -/
def leftover (t : CmdTable) : Presented → List Presented
  | .request _ => []
  | .micro _ => []
  | .command code data =>
    match commandOf t code data with
    | some _ => []
    | none => data.map fun b => .micro [0x11, b]

/-- A request word from its fields (30_encoding.md R65). -/
def requestWord (op rsv : Byte) (a b c d e : Word16) : RequestWord :=
  (e ++ d ++ c ++ b ++ a ++ rsv ++ op : BitVec 96)

/-- `count - 1` in 24 bits, high byte first. Log 6. -/
def countBytes (n : Nat) : List Byte :=
  let v := BitVec.ofNat 24 (n - 1)
  [v.extractLsb' 16 8, v.extractLsb' 8 8, v.extractLsb' 0 8]

/-- The encoder: requests by 30_encoding.md R66, R67; micro-ops by R71; commands by R75, R76. -/
def encode (t : CmdTable) : Instr → Presented
  | .construct cs dc rst sck mosi invert =>
    .request (requestWord 0x00 (if invert then 0x01 else 0x00) cs dc rst sck mosi)
  | .init r => .request (requestWord 0x01 0 (r.extractLsb' 0 16) (r.extractLsb' 16 16) 0 0 0)
  | .fillScreen color => .request (requestWord 0x02 0 color 0 0 0 0)
  | .fillRect x y w h color => .request (requestWord 0x03 0 x y w h color)
  | .drawPixel x y color => .request (requestWord 0x04 0 x y color 0 0)
  | .writeCommand b => .micro [0x10, b]
  | .writeData b => .micro [0x11, b]
  | .writeDataBuf bytes => .micro (0x12 :: (countBytes bytes.length ++ bytes))
  | .setWindow x0 y0 x1 y1 => .micro (0x13 :: (enc16 x0 ++ enc16 y0 ++ enc16 x1 ++ enc16 y1))
  | .pixelStream hi lo n => .micro (0x14 :: hi :: lo :: countBytes n)
  | .swreset => .command t.swreset []
  | .slpout => .command t.slpout []
  | .colmod p => .command t.colmod [p]
  | .madctl p => .command t.madctl [p]
  | .invoff => .command t.invoff []
  | .invon => .command t.invon []
  | .dispon => .command t.dispon []
  | .caset x0 x1 => .command t.caset (encPair x0 x1)
  | .raset y0 y1 => .command t.raset (encPair y0 y1)
  | .ramwr px => .command t.ramwr (px.flatMap enc16)

/-- How many argument bytes a micro-op with zero arguments has. -/
def microArgBytes (code : Byte) : Nat :=
  if code = 0x10 ∨ code = 0x11 then 1
  else if code = 0x12 then 4
  else if code = 0x13 then 8
  else if code = 0x14 then 5
  else 0

/-- What a row of spec/opcode_table.json with bits `w` presents: a request word where the row has 96 bits;
where it has 8, the command of that byte if the table has one, else the micro-op of that code, with zero
operand bytes after it. The byte 0x11 is both; the command is taken. Log 7. -/
def presentedOf (t : CmdTable) (nbits w : Nat) : Presented :=
  if nbits = 96 then .request (BitVec.ofNat 96 w)
  else
    let b := BitVec.ofNat 8 w
    match t.cmdOf b with
    | some c => .command b (List.replicate (nparams c) 0)
    | none => .micro (b :: List.replicate (microArgBytes b) 0)

/-- The instruction the decoder reads from a table row's bits. -/
def decodeTableWord (nbits w : Nat) : Option Instr :=
  match decode defaultCmds (presentedOf defaultCmds nbits w) with
  | .ok i => some i
  | .error _ => none

end Sys2Proof
end

