-- ==== Sys2Proof/Machine/State.lean ====
section
/-! DEFINITION. The state of the machine, as plain data: the block's state (10_state.md), the controller as
its observer (44_controller.md R142), the parameter table, and the model's own inputs. -/

namespace Sys2Proof.Machine

/-- A value or UNKNOWN. UNKNOWN is the spec's own value: "the observer admits any value" (44_controller.md
R142; 10_state.md R28). -/
inductive Known (α : Type) where
  | unknown
  | known (v : α)
  deriving DecidableEq, Repr

/-- A known value carried over by a function, UNKNOWN left UNKNOWN. -/
def Known.map {α β : Type} (f : α → β) : Known α → Known β
  | .unknown => .unknown
  | .known v => .known (f v)

/-- The three control lines (10_state.md R28). -/
inductive Line where
  | cs
  | dc
  | rst
  deriving DecidableEq, Repr

/-- The alphabet of the output trace (10_state.md R32). -/
inductive Event where
  /-- Configure the bus at a rate, with its clock and data-out lines. -/
  | busCfg (rate : BitRate) (sck mosi : LineId)
  /-- Configure a line as digital output. -/
  | outCfg (l : Line)
  /-- Drive a line to a level. -/
  | set (l : Line) (v : Level)
  /-- Transmit one byte. -/
  | tx (b : Byte)
  /-- Block for at least `ms` milliseconds. -/
  | sleep (ms : Nat)
  deriving DecidableEq, Repr

/-- The configuration registers `s.cfg` (10_state.md R22), written only by CONSTRUCT. -/
structure Cfg where
  csId : LineId
  dcId : LineId
  rstId : LineId
  sckId : LineId
  mosiId : LineId
  invert : Bool
  deriving DecidableEq, Repr

/-- `s.drv` (10_state.md R23). -/
inductive Driver where
  | unconfigured
  | ready
  deriving DecidableEq, Repr

/-- The reason codes of `mark_ub` (60_exceptions.md R168). -/
inductive UbReason where
  | drawBeforeInit
  | initTwice
  deriving DecidableEq, Repr

/-- `s.seq` (10_state.md R25): IDLE, or the operation being performed, whose operands are the latches of R30,
and the index of the next event of its trace. Log 13. -/
inductive Seq where
  | idle
  | busy (i : Instr) (k : Nat)
  deriving DecidableEq, Repr

/-- `s.line[l]` (10_state.md R28). -/
structure LineState where
  configured : Bool
  level : Known Level
  deriving DecidableEq, Repr

/-- `s.bus` (10_state.md R29). -/
inductive Bus where
  | none
  | rate (r : BitRate)
  deriving DecidableEq, Repr

/-- `o.cmd` (44_controller.md R142). -/
inductive CurCmd where
  | unknown
  | none
  | cmd (c : Cmd)
  deriving DecidableEq, Repr

/-- `o.sleep` when known: IN or OUT (44_controller.md R142). -/
inductive SleepState where
  | asleep
  | awake
  deriving DecidableEq, Repr

/-- Addressed storage: address and byte, in the canonical form of `Memory.wf`. -/
abbrev Memory := List Host.Cell

/-- The controller's observer state `o` (44_controller.md R142). Every field but `o.bad` has UNKNOWN, since all of
them are UNKNOWN once `o.bad` is set. Log 10. -/
structure Ctl where
  /-- `o.bad`: a premise failed, and every other field is UNKNOWN. -/
  bad : Bool
  /-- `o.cs`, the controller's view of chip-select. -/
  cs : Known Level
  /-- `o.dc`, its view of mode-select. -/
  dc : Known Level
  /-- `o.rst`, its view of the reset line. -/
  rst : Known Level
  /-- `o.reset_done`. -/
  resetDone : Known Bool
  /-- `o.low_ms`. -/
  lowMs : Known Nat
  /-- `o.quiet`. -/
  quiet : Known Nat
  /-- `o.cmd`. -/
  cmd : CurCmd
  /-- `o.params`. -/
  params : Known (List Byte)
  /-- `o.sleep`. -/
  sleep : Known SleepState
  /-- `o.disp`. -/
  disp : Known OnOff
  /-- `o.inv`. -/
  inv : Known OnOff
  /-- `o.colmod`. -/
  colmod : Known Byte
  /-- `o.madctl`. -/
  madctl : Known Byte
  /-- `o.xs`. -/
  xs : Known Word16
  /-- `o.xe`. -/
  xe : Known Word16
  /-- `o.ys`. -/
  ys : Known Word16
  /-- `o.ye`. -/
  ye : Known Word16
  /-- `o.cx`. -/
  cx : Known Nat
  /-- `o.cy`. -/
  cy : Known Nat
  /-- `o.half`: the high byte of a pixel not yet complete, or NONE (`.known none`). -/
  half : Known (Option Byte)
  /-- `o.fb`: the frame memory, UNKNOWN where nothing is listed. Log 12. -/
  fb : Memory
  deriving DecidableEq, Repr

/-- The observer at power-on (44_controller.md R142). -/
def Ctl.powerOn : Ctl :=
  { bad := false, cs := .unknown, dc := .unknown, rst := .unknown, resetDone := .known false,
    lowMs := .known 0, quiet := .known 0, cmd := .unknown, params := .known [], sleep := .unknown,
    disp := .unknown, inv := .unknown, colmod := .unknown, madctl := .unknown, xs := .unknown,
    xe := .unknown, ys := .unknown, ye := .unknown, cx := .unknown, cy := .unknown, half := .known none, fb := [] }

/-- The state of the machine. -/
structure State where
  /-- The parameter table (00_scope.md R7; 10_state.md R40), written by nothing. Log 5. -/
  par : Params
  /-- Whether the run's first CONSTRUCT has been accepted (30_encoding.md R68). -/
  constructed : Bool
  /-- `s.cfg` (10_state.md R22). -/
  cfg : Cfg
  /-- `s.drv` (10_state.md R23). -/
  drv : Driver
  /-- `s.seq` (10_state.md R25), with the operand latches (R30). -/
  seq : Seq
  /-- The UB marks, oldest first: the flag `s.ub` (10_state.md R27) is set when there is one. Log 20. -/
  ubMarks : List UbReason
  /-- `s.line[cs]` (10_state.md R28). -/
  cs : LineState
  /-- `s.line[dc]`. -/
  dc : LineState
  /-- `s.line[rst]`. -/
  rst : LineState
  /-- `s.bus` (10_state.md R29). -/
  bus : Bus
  /-- The output trace, oldest event first (10_state.md R32; 60_exceptions.md R180). -/
  trace : List Event
  /-- The controller (44_controller.md R142). -/
  ctl : Ctl
  /-- What the host still presents, next first (60_exceptions.md R182). Log 3. -/
  inbox : List Presented
  /-- None: every port event completes. `some n`: after `n` more events a port never completes
  (70_reset_and_hazards.md R199). Log 4. -/
  hang : Option Nat
  deriving DecidableEq, Repr

/-- No fault: "The block raises no exception, trap or error signal of any kind" (60_exceptions.md R166). So
the type has no constructor and no step answers a fault. Nothing raises one: neither safe nor unsafe. -/
inductive Fault where
  deriving DecidableEq, Repr

/-- Why an operation is refused (60_exceptions.md R170) and the run ends (R182). Every refusal is safe: it
emits nothing, changes nothing, and is never a successful end. -/
inductive Refusal where
  /-- An arm of `exec` that has no meaning yet. Raised by none. Safe. -/
  | notModelled (mnemonic : String)
  /-- `ReservedOpcode`: raised by `step` for a request word with OP above 4 (30_encoding.md R68). Safe. -/
  | reservedOpcode
  /-- `ReservedBits`: raised by `step` for a request word with a reserved bit set (30_encoding.md R68). Safe. -/
  | reservedBits
  /-- `ZeroBitRate`: raised by `step` and by INIT for a rate of 0 (30_encoding.md R68; 40_init.md R99). Safe. -/
  | zeroBitRate
  /-- `NotConstructed`: raised by every request but CONSTRUCT before the run's first CONSTRUCT
  (60_exceptions.md R170). Safe. -/
  | notConstructed
  /-- `EmptyBuffer`: raised by WRITE_DATA_BUF and PIXEL_STREAM with no bytes (41_framer.md R114). Safe. -/
  | emptyBuffer
  /-- Raised by every instruction while the sequencer is not IDLE, where the request port accepts nothing
  (10_state.md R33; 93_implementation_defined.md U9). `step` never gets there: it holds the host. Safe. Log 9. -/
  | portBusy
  /-- Raised by `step` for bytes that are no micro-op (30_encoding.md R71). Safe. Log 6. -/
  | badMicro
  deriving DecidableEq, Repr

/-- The machine at power-on, before the run's first CONSTRUCT: the start state of the spec's programs
(95_test_vectors.md section 8; 70_reset_and_hazards.md R183). `cfg` and `drv` DESIGN CHOICE. Log 2. -/
def State.reset : State :=
  { par := defaultParams
    constructed := false
    cfg := { csId := 0, dcId := 0, rstId := 0, sckId := 0, mosiId := 0, invert := false }
    drv := .unconfigured
    seq := .idle
    ubMarks := []
    cs := { configured := false, level := .unknown }
    dc := { configured := false, level := .unknown }
    rst := { configured := false, level := .unknown }
    bus := .none
    trace := []
    ctl := Ctl.powerOn
    inbox := []
    hang := none }

end Sys2Proof.Machine
end

