-- ==== Sys2Proof/Machine/Frame.lean ====
section
/-! DEFINITION. The frame memory: 240 columns by 320 rows of 16-bit cells (10_state.md R39), kept as bytes.
The cell of column `c` and row `r` is the two bytes at `2·(240·r + c)`, high byte first. Log 12. -/

namespace Sys2Proof.Machine

/-- How many bytes the frame memory has. -/
def frameBytes : Nat := 2 * (panelWidth * panelHeight)

/-- The canonical form: addresses strictly rising, all of them in the frame memory. No listed byte equals
what an unlisted one reads as, which is UNKNOWN. -/
abbrev Memory.wf (m : Memory) : Prop :=
  (m.map Prod.fst).Pairwise (· < ·) ∧ ∀ c ∈ m, c.1 < frameBytes

/-- The byte at an address; an unlisted address reads as UNKNOWN (44_controller.md R142). -/
def Memory.read (m : Memory) (a : Nat) : Known Byte :=
  match m with
  | [] => .unknown
  | (b, v) :: rest => if b = a then .known v else Memory.read rest a

/-- Memory with a byte stored, the list kept in rising order. -/
def Memory.write (m : Memory) (a : Nat) (v : Byte) : Memory :=
  match m with
  | [] => [(a, v)]
  | (b, w) :: rest =>
    if a < b then (a, v) :: (b, w) :: rest
    else if a = b then (a, v) :: rest
    else (b, w) :: Memory.write rest a v

/-- The address of the high byte of a cell. -/
def cellAddr (c r : Nat) : Nat := 2 * (panelWidth * r + c)

/-- `o.fb[c][r]`, `c < 240`, `r < 320` (44_controller.md R142). The spec has no other cell; that one off the panel
reads as UNKNOWN is a DESIGN CHOICE. Log 34. -/
def Memory.cell (m : Memory) (c r : Nat) : Known Word16 :=
  if c < panelWidth ∧ r < panelHeight then
    match m.read (cellAddr c r), m.read (cellAddr c r + 1) with
    | .known h, .known l => .known (join16 h l)
    | _, _ => .unknown
  else .unknown

/-- `FbWrite(c, r, v)`, the only writer of the frame memory (44_controller.md R146). -/
def Memory.fbWrite (m : Memory) (c r : Nat) (v : Word16) : Memory :=
  (m.write (cellAddr c r) (hiByte v)).write (cellAddr c r + 1) (loByte v)

end Sys2Proof.Machine
end

