-- ==== Sys2Proof/Machine/Controller.lean ====
section
/-! DEFINITION. The controller as the observer of the event trace (44_controller.md). -/

namespace Sys2Proof.Machine

/-- `o.bad` set: "all other fields are UNKNOWN from now on" (44_controller.md R142, R144), the whole frame memory
too. Log 10. -/
def Ctl.broken : Ctl :=
  { bad := true, cs := .unknown, dc := .unknown, rst := .unknown, resetDone := .unknown,
    lowMs := .unknown, quiet := .unknown, cmd := .unknown, params := .unknown, sleep := .unknown,
    disp := .unknown, inv := .unknown, colmod := .unknown, madctl := .unknown, xs := .unknown,
    xe := .unknown, ys := .unknown, ye := .unknown, cx := .unknown, cy := .unknown, half := .unknown,
    fb := [] }

/-- The reset-default state of 44_controller.md R145: a quiet time, sleep IN, display and inversion OFF,
registers UNKNOWN, frame memory unchanged. Log 18. -/
def Ctl.resetDefaults (o : Ctl) (quiet : Nat) : Ctl :=
  { o with
    resetDone := .known true, cmd := .none, params := .known [], half := .known none,
    sleep := .known .asleep, disp := .known .off, inv := .known .off, colmod := .unknown,
    madctl := .unknown, xs := .unknown, xe := .unknown, ys := .unknown, ye := .unknown,
    cx := .unknown, cy := .unknown, quiet := .known quiet }

/-- `Set rst v` (44_controller.md R145). -/
def Ctl.setRst (p : Params) (v : Level) (o : Ctl) : Ctl :=
  match v with
  | .low => { o with rst := .known .low, lowMs := .known 0, resetDone := .known false }
  | .high =>
    if o.rst = .known .low then
      match o.lowMs with
      | .known ms =>
        if p.obsRstLo ≤ ms then { o.resetDefaults p.obsRstRec with rst := .known .high }
        else Ctl.broken
      | .unknown => Ctl.broken
    else { o with rst := .known .high }

/-- `Sleep t` (44_controller.md R145). -/
def Ctl.sleepMs (t : Nat) (o : Ctl) : Ctl :=
  { o with
    quiet := o.quiet.map (· - t)
    lowMs := if o.rst = .known .low then o.lowMs.map (· + t) else o.lowMs }

/-- `complete(cmd, params, half)` (44_controller.md R143): whether a new command byte may come. -/
def Ctl.complete (o : Ctl) : Bool :=
  match o.cmd with
  | .unknown => false
  | .none => true
  | .cmd .ramwr => o.half = .known none
  | .cmd c =>
    match o.params with
    | .known ps => ps.length = nparams c
    | .unknown => false

/-- The effect of a command byte (44_controller.md R147, R148, R151 to R153, R156; the other four act when
their parameters are complete). -/
def Ctl.runCommand (p : Params) (c : Cmd) (o : Ctl) : Ctl :=
  match c with
  | .swreset => o.resetDefaults p.obsSwReset
  | .slpout => { o with sleep := .known .awake, quiet := .known p.obsSlpOut }
  | .invoff => { o with inv := .known .off }
  | .invon => { o with inv := .known .on }
  | .dispon => { o with disp := .known .on, quiet := .known p.obsDispOn }
  | .ramwr => { o with cx := o.xs.map BitVec.toNat, cy := o.ys.map BitVec.toNat, half := .known none }
  | .colmod => o
  | .madctl => o
  | .caset => o
  | .raset => o

/-- A command byte received in command mode (44_controller.md R143). -/
def Ctl.commandByte (p : Params) (b : Byte) (o : Ctl) : Ctl :=
  if o.complete then
    match p.cmds.cmdOf b with
    | some c => Ctl.runCommand p c { o with cmd := .cmd c, params := .known [] }
    | none => Ctl.broken
  else Ctl.broken

/-- The effect of a completed parameter list `ps` (44_controller.md R149, R150, R154, R155). -/
def Ctl.runParams (c : Cmd) (ps : List Byte) (o : Ctl) : Ctl :=
  match c, ps with
  | .colmod, [b] => { o with colmod := .known b }
  | .madctl, [b] => { o with madctl := .known b }
  | .caset, [p0, p1, p2, p3] =>
    if (join16 p0 p1).toNat ≤ (join16 p2 p3).toNat ∧ (join16 p2 p3).toNat < panelWidth then
      { o with xs := .known (join16 p0 p1), xe := .known (join16 p2 p3) }
    else Ctl.broken
  | .raset, [p0, p1, p2, p3] =>
    if (join16 p0 p1).toNat ≤ (join16 p2 p3).toNat ∧ (join16 p2 p3).toNat < panelHeight then
      { o with ys := .known (join16 p0 p1), ye := .known (join16 p2 p3) }
    else Ctl.broken
  | _, _ => o

/-- A completed pixel (44_controller.md R157): the pixel premises, past the window's end (R158), the write
and the step of the cursor. A cursor outside the panel has no cell to write (R146) and is `bad`. Log 24. -/
def Ctl.pixel (p : Params) (v : Word16) (o : Ctl) : Ctl :=
  if o.colmod = .known p.colmod16bpp ∧ o.madctl = .known p.madctlNormal ∧ o.sleep = .known .awake then
    match o.xs, o.xe, o.ys, o.ye, o.cx, o.cy with
    | .known xs, .known xe, .known _, .known ye, .known cx, .known cy =>
      if ye.toNat < cy then Ctl.broken
      else if panelWidth ≤ cx ∨ panelHeight ≤ cy then Ctl.broken
      else
        let o := { o with fb := o.fb.fbWrite cx cy v, half := .known none }
        if xe.toNat < cx + 1 then { o with cx := .known xs.toNat, cy := .known (cy + 1) }
        else { o with cx := .known (cx + 1) }
    | _, _, _, _, _, _ => Ctl.broken
  else Ctl.broken

/-- `pixel_byte(b)` (44_controller.md R157): pairs of bytes, high byte first. -/
def Ctl.pixelByte (p : Params) (b : Byte) (o : Ctl) : Ctl :=
  match o.half with
  | .known none => { o with half := .known (some b) }
  | .known (some h) => Ctl.pixel p (join16 h b) { o with half := .known none }
  | .unknown => Ctl.broken

/-- A byte received in data mode (44_controller.md R143, R160). -/
def Ctl.dataByte (p : Params) (b : Byte) (o : Ctl) : Ctl :=
  match o.cmd with
  | .cmd .ramwr => o.pixelByte p b
  | .cmd c =>
    match o.params with
    | .known ps =>
      if ps.length < nparams c then
        let o := { o with params := .known (ps ++ [b]) }
        if (ps ++ [b]).length = nparams c then o.runParams c (ps ++ [b]) else o
      else Ctl.broken
    | .unknown => Ctl.broken
  | .none => Ctl.broken
  | .unknown => Ctl.broken

/-- `Tx b` (44_controller.md R143): ignored while chip-select is not active, `bad` before a reset has
completed, while the reset line is not high and while a settling time runs (R144). -/
def Ctl.receive (p : Params) (b : Byte) (o : Ctl) : Ctl :=
  if o.cs = .known p.csActive then
    if o.resetDone = .known true ∧ o.rst = .known .high ∧ o.quiet = .known 0 then
      match o.dc with
      | .known .low => o.commandByte p b
      | .known .high => o.dataByte p b
      | .unknown => Ctl.broken
    else Ctl.broken
  else o

/-- One event of the trace, seen by the controller (44_controller.md R143). `o.bad` is sticky (R144). -/
def Ctl.event (p : Params) (e : Event) (o : Ctl) : Ctl :=
  if o.bad then o
  else
    match e with
    | .busCfg _ _ _ => o
    | .outCfg _ => o
    | .set .cs v => { o with cs := .known v }
    | .set .dc v => { o with dc := .known v }
    | .set .rst v => o.setRst p v
    | .sleep t => o.sleepMs t
    | .tx b => o.receive p b

/-- The events of a trace, seen in order. -/
def Ctl.run (p : Params) (es : List Event) (o : Ctl) : Ctl :=
  es.foldl (fun o e => Ctl.event p e o) o

end Sys2Proof.Machine
end

