-- ==== Sys2Proof/Machine/Flags.lean ====
section
/-! DEFINITION. The flags: the UB flag and its marking (10_state.md R27; 60_exceptions.md R168). The block
has no arithmetic flag (10_state.md R31). -/

namespace Sys2Proof.Machine

/-- `s.ub` (10_state.md R27): set when something has been marked. -/
def State.ub (s : State) : Bool := !s.ubMarks.isEmpty

/-- `mark_ub(reason)` (10_state.md R27; 60_exceptions.md R168). -/
def State.markUb (r : UbReason) (s : State) : State := { s with ubMarks := s.ubMarks ++ [r] }

/-- The drawing entry check (43_drawing.md R125). -/
def drawEntry (s : State) : State :=
  match s.drv with
  | .unconfigured => s.markUb .drawBeforeInit
  | .ready => s

/-- The INIT entry check (40_init.md R89). -/
def initEntry (s : State) : State :=
  match s.drv with
  | .ready => s.markUb .initTwice
  | .unconfigured => s

/-- What accepting an operation marks (10_state.md R27: "in exactly these cases"). -/
def entryMarks (i : Instr) (s : State) : State :=
  match i with
  | .init _ => initEntry s
  | .fillScreen _ => drawEntry s
  | .fillRect _ _ _ _ _ => drawEntry s
  | .drawPixel _ _ _ => drawEntry s
  | .construct _ _ _ _ _ _ => s
  | .writeCommand _ => s
  | .writeData _ => s
  | .writeDataBuf _ => s
  | .setWindow _ _ _ _ => s
  | .pixelStream _ _ _ => s
  | .swreset => s
  | .slpout => s
  | .colmod _ => s
  | .madctl _ => s
  | .invoff => s
  | .invon => s
  | .dispon => s
  | .caset _ _ => s
  | .raset _ _ => s
  | .ramwr _ => s

end Sys2Proof.Machine
end

