-- ==== Sys2Proof/Machine/Operands.lean ====
section
/-! DEFINITION. The operand computations of the drawing requests: clipping and the window's end
(43_drawing.md R126 to R128), on unbounded integers (92_eei_decisions.md D31). -/

namespace Sys2Proof.Machine

/-- `min(extent, bound - start)` (43_drawing.md R127), for a start inside the panel. -/
def clipExtent (bound start extent : Nat) : Nat := min extent (bound - start)

/-- Whether a drawing request's origin lies on the panel (43_drawing.md R128, R136). -/
def onPanel (x y : Word16) : Bool := x.toNat < panelWidth && y.toNat < panelHeight

/-- A rectangle to fill: origin and clipped extents `cw`, `ch`. -/
structure Clip where
  x : Nat
  y : Nat
  cw : Nat
  ch : Nat
  deriving DecidableEq, Repr

/-- The clipped rectangle of FILL_RECT, none for its no-op cases (43_drawing.md R126, R128). -/
def clipRect (x y w h : Word16) : Option Clip :=
  if onPanel x y then
    let cw := clipExtent panelWidth x.toNat w.toNat
    let ch := clipExtent panelHeight y.toNat h.toNat
    if cw = 0 ∨ ch = 0 then none else some { x := x.toNat, y := y.toNat, cw := cw, ch := ch }
  else none

/-- Whether a cell lies in the rectangle (00_scope.md R15). -/
def Clip.covers (q : Clip) (c r : Nat) : Bool :=
  q.x ≤ c && c < q.x + q.cw && q.y ≤ r && r < q.y + q.ch

end Sys2Proof.Machine
end

