-- ==== Sys2Proof/Machine/Trace.lean ====
section
/-! DEFINITION. The trace of every instruction: the events it emits, in order. A trace is a function of the
parameters, the configuration and the operands, and of nothing else (10_state.md R26). -/

namespace Sys2Proof.Machine

/-- `TXN(mode, bytes)` (41_framer.md R110): mode-select, chip-select asserted, the bytes, chip-select
deasserted. -/
def txn (p : Params) (mode : Level) (bytes : List Byte) : List Event :=
  .set .dc mode :: .set .cs p.csActive :: (bytes.map .tx ++ [.set .cs p.csActive.flip])

/-- WRITE_COMMAND(b) (41_framer.md R111). -/
def writeCommandTrace (p : Params) (b : Byte) : List Event := txn p .low [b]

/-- WRITE_DATA(b) (41_framer.md R112). -/
def writeDataTrace (p : Params) (b : Byte) : List Event := txn p .high [b]

/-- WRITE_DATA_BUF(bytes) (41_framer.md R113). -/
def writeDataBufTrace (p : Params) (bytes : List Byte) : List Event := txn p .high bytes

/-- The bytes of `n` copies of one pixel (43_drawing.md R129). -/
def pixelBytes (hi lo : Byte) : Nat → List Byte
  | 0 => []
  | n + 1 => hi :: lo :: pixelBytes hi lo n

/-- PIXEL_STREAM(hi, lo, n) (43_drawing.md R129). -/
def pixelStreamTrace (p : Params) (hi lo : Byte) (n : Nat) : List Event :=
  txn p .high (pixelBytes hi lo n)

/-- The command CASET with its two columns (30_encoding.md R75; 42_window.md R119). -/
def casetTrace (p : Params) (x0 x1 : Word16) : List Event :=
  writeCommandTrace p p.cmds.caset ++ writeDataBufTrace p (encPair x0 x1)

/-- The command RASET with its two rows. -/
def rasetTrace (p : Params) (y0 y1 : Word16) : List Event :=
  writeCommandTrace p p.cmds.raset ++ writeDataBufTrace p (encPair y0 y1)

/-- The command RAMWR with its pixels; without pixels the command byte alone (44_controller.md R156). -/
def ramwrTrace (p : Params) (pixels : List Word16) : List Event :=
  writeCommandTrace p p.cmds.ramwr ++
    (if pixels = [] then [] else writeDataBufTrace p (pixels.flatMap enc16))

/-- SET_WINDOW(x0, y0, x1, y1) (42_window.md R119). -/
def setWindowTrace (p : Params) (x0 y0 x1 y1 : Word16) : List Event :=
  casetTrace p x0 x1 ++ rasetTrace p y0 y1 ++ writeCommandTrace p p.cmds.ramwr

/-- A command with one parameter, in a data transaction of its own (40_init.md R95, R96). -/
def oneParamTrace (p : Params) (code b : Byte) : List Event :=
  writeCommandTrace p code ++ writeDataTrace p b

/-- Step 3 of INIT, the hardware reset pulse (40_init.md R92). -/
def resetPulseTrace (p : Params) : List Event :=
  [.set .rst .high, .sleep p.tPwr, .set .rst .low, .sleep p.tRstLo, .set .rst .high, .sleep p.tRstRec]

/-- INIT(bit_rate), the nine steps in order (40_init.md R90 to R99). -/
def initTrace (p : Params) (c : Cfg) (bitRate : BitRate) : List Event :=
  [.busCfg bitRate c.sckId c.mosiId, .outCfg .cs, .outCfg .dc, .outCfg .rst] ++
  resetPulseTrace p ++
  writeCommandTrace p p.cmds.swreset ++ [.sleep p.tSwReset] ++
  writeCommandTrace p p.cmds.slpout ++ [.sleep p.tSlpOut] ++
  oneParamTrace p p.cmds.colmod p.colmod16bpp ++
  oneParamTrace p p.cmds.madctl p.madctlNormal ++
  writeCommandTrace p (if c.invert then p.cmds.invon else p.cmds.invoff) ++
  writeCommandTrace p p.cmds.dispon ++ [.sleep p.tDispOn]

/-- FILL_RECT(x, y, w, h, color) (43_drawing.md R126): nothing when clipped away, else the window and one
pixel stream. -/
def fillRectTrace (p : Params) (x y w h color : Word16) : List Event :=
  match clipRect x y w h with
  | none => []
  | some q =>
    setWindowTrace p x y (BitVec.ofNat 16 (q.x + q.cw - 1)) (BitVec.ofNat 16 (q.y + q.ch - 1)) ++
      pixelStreamTrace p (hiByte color) (loByte color) (q.cw * q.ch)

/-- FILL_SCREEN(color) = FILL_RECT(0, 0, 240, 320, color) (43_drawing.md R133). -/
def fillScreenTrace (p : Params) (color : Word16) : List Event :=
  fillRectTrace p 0 0 (BitVec.ofNat 16 panelWidth) (BitVec.ofNat 16 panelHeight) color

/-- DRAW_PIXEL(x, y, color) (43_drawing.md R135). -/
def drawPixelTrace (p : Params) (x y color : Word16) : List Event :=
  if onPanel x y then setWindowTrace p x y x y ++ writeDataBufTrace p [hiByte color, loByte color]
  else []

/-- `trace(cfg, req)` of 10_state.md R26, for every operation the sequencer performs. -/
def traceOf (p : Params) (c : Cfg) (i : Instr) : List Event :=
  match i with
  | .construct _ _ _ _ _ _ => []
  | .init r => initTrace p c r
  | .fillScreen color => fillScreenTrace p color
  | .fillRect x y w h color => fillRectTrace p x y w h color
  | .drawPixel x y color => drawPixelTrace p x y color
  | .writeCommand b => writeCommandTrace p b
  | .writeData b => writeDataTrace p b
  | .writeDataBuf bytes => writeDataBufTrace p bytes
  | .setWindow x0 y0 x1 y1 => setWindowTrace p x0 y0 x1 y1
  | .pixelStream hi lo n => pixelStreamTrace p hi lo n
  | .swreset => writeCommandTrace p p.cmds.swreset
  | .slpout => writeCommandTrace p p.cmds.slpout
  | .colmod b => oneParamTrace p p.cmds.colmod b
  | .madctl b => oneParamTrace p p.cmds.madctl b
  | .invoff => writeCommandTrace p p.cmds.invoff
  | .invon => writeCommandTrace p p.cmds.invon
  | .dispon => writeCommandTrace p p.cmds.dispon
  | .caset x0 x1 => casetTrace p x0 x1
  | .raset y0 y1 => rasetTrace p y0 y1
  | .ramwr pixels => ramwrTrace p pixels

end Sys2Proof.Machine
end

