-- ==== Sys2Proof/Machine/Ops.lean ====
section
/-! DEFINITION. The named operations: the ports performing an event, the sequencer's one-event step
(10_state.md R26), an operation performed whole (00_scope.md R12), the request port's acceptance (R33) and
the fetch of what the host presents. The hardware takes no exception and returns from none (60_exceptions.md
R166, R173, R174), so there is no such operation. -/

namespace Sys2Proof.Machine

/-- What an event leaves a line in (10_state.md R28): `OutCfg` configures it with level UNKNOWN, `Set`
drives it. Log 15. -/
def LineState.after (l : Line) (e : Event) (v : LineState) : LineState :=
  match e with
  | .outCfg l' => if l' = l then { configured := true, level := .unknown } else v
  | .set l' lv => if l' = l then { v with level := .known lv } else v
  | .busCfg _ _ _ => v
  | .tx _ => v
  | .sleep _ => v

/-- What an event leaves the bus in (10_state.md R29). -/
def Bus.after (e : Event) (b : Bus) : Bus :=
  match e with
  | .busCfg r _ _ => .rate r
  | .outCfg _ => b
  | .set _ _ => b
  | .tx _ => b
  | .sleep _ => b

/-- One event performed by its port (10_state.md R32 to R36) and seen by the controller: appended to the
trace, the lines, the bus and the controller changed. One port completion less is left before a hang. -/
def emit (e : Event) (s : State) : State :=
  { s with
    trace := s.trace ++ [e]
    cs := s.cs.after .cs e
    dc := s.dc.after .dc e
    rst := s.rst.after .rst e
    bus := s.bus.after e
    ctl := s.ctl.event s.par e
    hang := s.hang.map (· - 1) }

/-- The events of a trace performed in order. -/
def emitAll (es : List Event) (s : State) : State :=
  match es with
  | [] => s
  | e :: rest => emitAll rest (emit e s)

/-- Whether the port that takes the next event never completes it (70_reset_and_hazards.md R199). Log 4. -/
def State.held (s : State) : Bool := s.hang == some 0

/-- CONSTRUCT's writes (40_init.md R87; 10_state.md R41): the configuration, and the dynamic state back to
its reset values. The UB flag is cleared by the first CONSTRUCT of a run alone (10_state.md R27). -/
def State.construct (cs dc rst sck mosi : LineId) (invert : Bool) (s : State) : State :=
  { s with
    constructed := true
    cfg := { csId := cs, dcId := dc, rstId := rst, sckId := sck, mosiId := mosi, invert := invert }
    drv := .unconfigured
    seq := .idle
    ubMarks := if s.constructed then s.ubMarks else []
    cs := { configured := false, level := .unknown }
    dc := { configured := false, level := .unknown }
    rst := { configured := false, level := .unknown }
    bus := .none }

/-- The final state update of an operation, and IDLE (10_state.md R26): READY for INIT (40_init.md R104),
the reset for CONSTRUCT, nothing more for the others. -/
def finish (i : Instr) (s : State) : State :=
  match i with
  | .construct cs dc rst sck mosi invert => s.construct cs dc rst sck mosi invert
  | .init _ => { s with drv := .ready, seq := .idle }
  | .fillScreen _ => { s with seq := .idle }
  | .fillRect _ _ _ _ _ => { s with seq := .idle }
  | .drawPixel _ _ _ => { s with seq := .idle }
  | .writeCommand _ => { s with seq := .idle }
  | .writeData _ => { s with seq := .idle }
  | .writeDataBuf _ => { s with seq := .idle }
  | .setWindow _ _ _ _ => { s with seq := .idle }
  | .pixelStream _ _ _ => { s with seq := .idle }
  | .swreset => { s with seq := .idle }
  | .slpout => { s with seq := .idle }
  | .colmod _ => { s with seq := .idle }
  | .madctl _ => { s with seq := .idle }
  | .invoff => { s with seq := .idle }
  | .invon => { s with seq := .idle }
  | .dispon => { s with seq := .idle }
  | .caset _ _ => { s with seq := .idle }
  | .raset _ _ => { s with seq := .idle }
  | .ramwr _ => { s with seq := .idle }

/-- One step of the sequencer (10_state.md R26): at `(i, k)` event `k` is emitted and the position advances;
the last event's step, or the one step of an empty trace, applies the final update and goes IDLE. A port
that never completes leaves the position where it is. Log 29. -/
def tick (s : State) : State :=
  match s.seq with
  | .idle => s
  | .busy i k =>
    match (traceOf s.par s.cfg i).drop k with
    | [] => finish i s
    | [e] => if s.held then s else finish i (emit e s)
    | e :: _ :: _ => if s.held then s else { emit e s with seq := .busy i (k + 1) }

/-- The sequencer at event `k` of operation `i`, the remaining events `es`: all of them performed, then the
final update; or the position kept at the event a port never completes. -/
def drain (i : Instr) (es : List Event) (k : Nat) (s : State) : State :=
  match es with
  | [] => finish i s
  | e :: rest => if s.held then { s with seq := .busy i k } else drain i rest (k + 1) (emit e s)

/-- `run(cfg, s, req)` (00_scope.md R12): the operation's entry marks and its whole trace. -/
def perform (i : Instr) (s : State) : State :=
  drain i (traceOf s.par s.cfg i) 0 (entryMarks i s)

/-- The state right after the request port has accepted an operation (10_state.md R33). -/
def accepted (i : Instr) (s : State) : State :=
  { entryMarks i s with seq := .busy i 0 }

/-- `n` steps of the sequencer. -/
def ticks : Nat → State → State
  | 0, s => s
  | n + 1, s => ticks n (tick s)

/-- What the sequencer does only at IDLE (10_state.md R33): `t` is the state then. -/
def whenIdle (s t : State) : Host.Outcome State Fault Refusal :=
  if s.seq = .idle then .next t else .refused .portBusy

/-- What the request port accepts only after the run's first CONSTRUCT (30_encoding.md R68). -/
def whenConstructed (s t : State) : Host.Outcome State Fault Refusal :=
  if s.seq = .idle then if s.constructed then .next t else .refused .notConstructed
  else .refused .portBusy

/-- The refusal of what was not decoded (60_exceptions.md R170). -/
def refusalOf : DecodeError → Refusal
  | .reservedOpcode => .reservedOpcode
  | .reservedBits => .reservedBits
  | .zeroBitRate => .zeroBitRate
  | .badMicro => .badMicro

/-- What the host presents next, decoded, and the state with it taken (10_state.md R33), but for what is left of
it; none when it presents nothing. -/
def fetch (s : State) : Option (Except DecodeError Instr × State) :=
  match s.inbox with
  | [] => none
  | w :: rest => some (decode s.par.cmds w, { s with inbox := leftover s.par.cmds w ++ rest })

/-- `w` presented next to an idle sequencer. A request other than CONSTRUCT is taken by the port only after
a CONSTRUCT (30_encoding.md R68), so presenting one stands for a run that has had it. Log 3. -/
def State.present (w : Presented) (s : State) : State :=
  { s with
    seq := .idle
    inbox := w :: s.inbox
    constructed :=
      match w with
      | .request q => s.constructed || reqOp q != 0x00
      | .micro _ => s.constructed
      | .command _ _ => s.constructed }

/-- A run's request words handed to the host's list (60_exceptions.md R182). -/
def State.load (ws : List RequestWord) (s : State) : State :=
  { s with inbox := s.inbox ++ ws.map .request }

end Sys2Proof.Machine
end

