-- ==== Sys2Proof/Machine/Command.lean ====
section
/-! DEFINITION. The meanings of the ten controller commands (30_encoding.md R75): the command byte and its
data sent in the spec's frame (30_encoding.md R74) and received by the controller (44_controller.md R143).
Log 8. -/

namespace Sys2Proof.Machine

/-- SWRESET (44_controller.md R147): the command sent, the controller back in its reset-default state. -/
def execSwreset (s : State) : Host.Outcome State Fault Refusal :=
  whenIdle s (perform .swreset s)

/-- SLPOUT (44_controller.md R148): sleep OUT. -/
def execSlpout (s : State) : Host.Outcome State Fault Refusal :=
  whenIdle s (perform .slpout s)

/-- COLMOD (44_controller.md R149): the pixel format set to the parameter. -/
def execColmod (p : Byte) (s : State) : Host.Outcome State Fault Refusal :=
  whenIdle s (perform (.colmod p) s)

/-- MADCTL (44_controller.md R150): the memory-access control set to the parameter. -/
def execMadctl (p : Byte) (s : State) : Host.Outcome State Fault Refusal :=
  whenIdle s (perform (.madctl p) s)

/-- INVOFF (44_controller.md R151): inversion OFF. -/
def execInvoff (s : State) : Host.Outcome State Fault Refusal :=
  whenIdle s (perform .invoff s)

/-- INVON (44_controller.md R152): inversion ON. -/
def execInvon (s : State) : Host.Outcome State Fault Refusal :=
  whenIdle s (perform .invon s)

/-- DISPON (44_controller.md R153): display ON. -/
def execDispon (s : State) : Host.Outcome State Fault Refusal :=
  whenIdle s (perform .dispon s)

/-- CASET (44_controller.md R154): the column range, both ends inclusive. -/
def execCaset (x0 x1 : Word16) (s : State) : Host.Outcome State Fault Refusal :=
  whenIdle s (perform (.caset x0 x1) s)

/-- RASET (44_controller.md R155): the row range, both ends inclusive. -/
def execRaset (y0 y1 : Word16) (s : State) : Host.Outcome State Fault Refusal :=
  whenIdle s (perform (.raset y0 y1) s)

/-- RAMWR (44_controller.md R156, R157): the cursor to the window's start, then the pixels. -/
def execRamwr (pixels : List Word16) (s : State) : Host.Outcome State Fault Refusal :=
  whenIdle s (perform (.ramwr pixels) s)

end Sys2Proof.Machine
end

