-- ==== Sys2Proof/Machine/Micro.lean ====
section
/-! DEFINITION. The meanings of the five micro-ops (30_encoding.md R70), performed by an idle sequencer. They
mark no UB and the request port refuses none of them (41_framer.md). -/

namespace Sys2Proof.Machine

/-- WRITE_COMMAND (41_framer.md R111): any byte is framed the same way. -/
def execWriteCommand (b : Byte) (s : State) : Host.Outcome State Fault Refusal :=
  whenIdle s (perform (.writeCommand b) s)

/-- WRITE_DATA (41_framer.md R112). -/
def execWriteData (b : Byte) (s : State) : Host.Outcome State Fault Refusal :=
  whenIdle s (perform (.writeData b) s)

/-- WRITE_DATA_BUF (41_framer.md R113); an empty list is refused by name (R114). -/
def execWriteDataBuf (bytes : List Byte) (s : State) : Host.Outcome State Fault Refusal :=
  if bytes = [] then .refused .emptyBuffer else whenIdle s (perform (.writeDataBuf bytes) s)

/-- SET_WINDOW (42_window.md R119): the block does not check its precondition (R121). -/
def execSetWindow (x0 y0 x1 y1 : Word16) (s : State) : Host.Outcome State Fault Refusal :=
  whenIdle s (perform (.setWindow x0 y0 x1 y1) s)

/-- PIXEL_STREAM (43_drawing.md R129); a transaction has one byte or more (41_framer.md R110), so no pixel is
refused as an empty buffer. Log 25. -/
def execPixelStream (hi lo : Byte) (n : Nat) (s : State) : Host.Outcome State Fault Refusal :=
  if n = 0 then .refused .emptyBuffer else whenIdle s (perform (.pixelStream hi lo n) s)

end Sys2Proof.Machine
end

