-- ==== Sys2Proof/Machine/Request.lean ====
section
/-! DEFINITION. The meanings of the five requests (30_encoding.md R64): accepted at IDLE, performed whole. -/

namespace Sys2Proof.Machine

/-- CONSTRUCT (40_init.md R87): accepted also before the run's first CONSTRUCT. -/
def execConstruct (cs dc rst sck mosi : LineId) (invert : Bool) (s : State) :
    Host.Outcome State Fault Refusal :=
  whenIdle s (perform (.construct cs dc rst sck mosi invert) s)

/-- INIT (40_init.md R99): a zero rate refused first (60_exceptions.md R172), then the marks of R89 and the
sequence. -/
def execInit (bitRate : BitRate) (s : State) : Host.Outcome State Fault Refusal :=
  if bitRate = 0 then .refused .zeroBitRate else whenConstructed s (perform (.init bitRate) s)

/-- FILL_SCREEN (43_drawing.md R133). -/
def execFillScreen (color : Word16) (s : State) : Host.Outcome State Fault Refusal :=
  whenConstructed s (perform (.fillScreen color) s)

/-- FILL_RECT (43_drawing.md R126). -/
def execFillRect (x y w h color : Word16) (s : State) : Host.Outcome State Fault Refusal :=
  whenConstructed s (perform (.fillRect x y w h color) s)

/-- DRAW_PIXEL (43_drawing.md R135). -/
def execDrawPixel (x y color : Word16) (s : State) : Host.Outcome State Fault Refusal :=
  whenConstructed s (perform (.drawPixel x y color) s)

end Sys2Proof.Machine
end

