-- ==== Sys2Proof/Machine/Dispatch.lean ====
section
/-! DEFINITION. One arm per instruction, each one call of its meaning. -/

namespace Sys2Proof.Machine

/-- What an instruction does to a state. -/
def exec (i : Instr) (s : State) : Host.Outcome State Fault Refusal :=
  match i with
  | .construct cs dc rst sck mosi invert => Sys2Proof.Machine.execConstruct cs dc rst sck mosi invert s
  | .init bitRate => Sys2Proof.Machine.execInit bitRate s
  | .fillScreen color => Sys2Proof.Machine.execFillScreen color s
  | .fillRect x y w h color => Sys2Proof.Machine.execFillRect x y w h color s
  | .drawPixel x y color => Sys2Proof.Machine.execDrawPixel x y color s
  | .writeCommand b => Sys2Proof.Machine.execWriteCommand b s
  | .writeData b => Sys2Proof.Machine.execWriteData b s
  | .writeDataBuf bytes => Sys2Proof.Machine.execWriteDataBuf bytes s
  | .setWindow x0 y0 x1 y1 => Sys2Proof.Machine.execSetWindow x0 y0 x1 y1 s
  | .pixelStream hi lo n => Sys2Proof.Machine.execPixelStream hi lo n s
  | .swreset => Sys2Proof.Machine.execSwreset s
  | .slpout => Sys2Proof.Machine.execSlpout s
  | .colmod p => Sys2Proof.Machine.execColmod p s
  | .madctl p => Sys2Proof.Machine.execMadctl p s
  | .invoff => Sys2Proof.Machine.execInvoff s
  | .invon => Sys2Proof.Machine.execInvon s
  | .dispon => Sys2Proof.Machine.execDispon s
  | .caset x0 x1 => Sys2Proof.Machine.execCaset x0 x1 s
  | .raset y0 y1 => Sys2Proof.Machine.execRaset y0 y1 s
  | .ramwr pixels => Sys2Proof.Machine.execRamwr pixels s

end Sys2Proof.Machine
end

