-- ==== Sys2Proof/Machine/Step.lean ====
section
/-! DEFINITION. One step of the machine. Log 1. -/

namespace Sys2Proof.Machine

/-- One step. A busy sequencer performs its next event, and the port takes nothing (10_state.md R26, R33). An
idle one takes what the host presents next and performs it whole (00_scope.md R12), or refuses it by name
(60_exceptions.md R170); with nothing presented it stays IDLE (Log 27). -/
def step (s : State) : Host.Outcome State Fault Refusal :=
  match s.seq with
  | .busy _ _ => .next (tick s)
  | .idle =>
    match fetch s with
    | none => .next s
    | some (.error e, _) => .refused (refusalOf e)
    | some (.ok i, t) => exec i t

/-- A row of spec/opcode_table.json, numbered as the table numbers it, presented so that the very next step
performs it. Log 3, Log 7. -/
def State.withFetchWord (s : State) (nbits w : Nat) : State :=
  s.present (presentedOf s.par.cmds nbits w)

end Sys2Proof.Machine
end

