-- ==== Sys2Proof/Machine/Asm.lean ====
section
/-! DEFINITION. The request assembly text (30_encoding.md R82, R83) and the trace listing (R84). -/

namespace Sys2Proof.Machine

/-- Why a line does not assemble. -/
inductive AsmError where
  /-- No mnemonic of 30_encoding.md R82, or operands that are not numbers. -/
  | badLine
  /-- Too few or too many operands for the mnemonic. -/
  | operandCount
  /-- "An operand that does not fit its field is an assembly error, not a truncation" (R82). -/
  | doesNotFit
  deriving DecidableEq, Repr

/-- A digit's value in base 16; a base 10 number uses those below ten. -/
def asmDigit (c : Char) : Option Nat :=
  if '0' ≤ c ∧ c ≤ '9' then some (c.toNat - '0'.toNat)
  else if 'a' ≤ c ∧ c ≤ 'f' then some (c.toNat - 'a'.toNat + 10)
  else if 'A' ≤ c ∧ c ≤ 'F' then some (c.toNat - 'A'.toNat + 10)
  else none

/-- The value of digits after `acc`. -/
def asmDigits (base acc : Nat) : List Char → Option Nat
  | [] => some acc
  | c :: cs =>
    match asmDigit c with
    | some d => if d < base then asmDigits base (base * acc + d) cs else none
    | none => none

/-- A decimal or `0x` hexadecimal number. -/
def asmNumber : List Char → Option Nat
  | [] => none
  | ['0', 'x'] => none
  | '0' :: 'x' :: ds => asmDigits 16 0 ds
  | ds => asmDigits 10 0 ds

/-- Spaces off both ends. -/
def asmTrim (cs : List Char) : List Char :=
  ((cs.dropWhile (· == ' ')).reverse.dropWhile (· == ' ')).reverse

/-- The text between commas. -/
def asmFields : List Char → List (List Char)
  | [] => [[]]
  | c :: cs =>
    if c = ',' then [] :: asmFields cs
    else
      match asmFields cs with
      | [] => [[c]]
      | f :: fs => (c :: f) :: fs

/-- All the numbers of the fields, none if one is no number. -/
def asmNumbers : List (List Char) → Option (List Nat)
  | [] => some []
  | f :: fs =>
    match asmNumber (asmTrim f), asmNumbers fs with
    | some n, some ns => some (n :: ns)
    | _, _ => none

/-- The operands of a line, `[]` where it has none. -/
def asmOperands (cs : List Char) : Option (List Nat) :=
  if asmTrim cs = [] then some [] else asmNumbers (asmFields cs)

/-- Whether every operand fits its field (30_encoding.md R66, R82). -/
def asmFits (bits : Nat) (ns : List Nat) : Bool := ns.all (· < 2 ^ bits)

/-- CONSTRUCT with five operands, or six with `invert` (30_encoding.md R82, R83). -/
def asmConstruct : List Nat → Except AsmError Instr
  | [cs, dc, rst, sck, mosi] =>
    if asmFits 16 [cs, dc, rst, sck, mosi] then
      .ok (.construct (BitVec.ofNat 16 cs) (BitVec.ofNat 16 dc) (BitVec.ofNat 16 rst)
        (BitVec.ofNat 16 sck) (BitVec.ofNat 16 mosi) false)
    else .error .doesNotFit
  | [cs, dc, rst, sck, mosi, inv] =>
    if asmFits 16 [cs, dc, rst, sck, mosi] ∧ asmFits 1 [inv] then
      .ok (.construct (BitVec.ofNat 16 cs) (BitVec.ofNat 16 dc) (BitVec.ofNat 16 rst)
        (BitVec.ofNat 16 sck) (BitVec.ofNat 16 mosi) (inv == 1))
    else .error .doesNotFit
  | _ => .error .operandCount

/-- INIT, at 32,000,000 where the operand is left out (30_encoding.md R83). -/
def asmInit : List Nat → Except AsmError Instr
  | [] => .ok (.init (BitVec.ofNat 32 bitRateDefault))
  | [r] => if asmFits 32 [r] then .ok (.init (BitVec.ofNat 32 r)) else .error .doesNotFit
  | _ => .error .operandCount

/-- FILL_SCREEN (30_encoding.md R82). -/
def asmFillScreen : List Nat → Except AsmError Instr
  | [color] =>
    if asmFits 16 [color] then .ok (.fillScreen (BitVec.ofNat 16 color)) else .error .doesNotFit
  | _ => .error .operandCount

/-- FILL_RECT (30_encoding.md R82). -/
def asmFillRect : List Nat → Except AsmError Instr
  | [x, y, w, h, color] =>
    if asmFits 16 [x, y, w, h, color] then
      .ok (.fillRect (BitVec.ofNat 16 x) (BitVec.ofNat 16 y) (BitVec.ofNat 16 w)
        (BitVec.ofNat 16 h) (BitVec.ofNat 16 color))
    else .error .doesNotFit
  | _ => .error .operandCount

/-- DRAW_PIXEL (30_encoding.md R82). -/
def asmDrawPixel : List Nat → Except AsmError Instr
  | [x, y, color] =>
    if asmFits 16 [x, y, color] then
      .ok (.drawPixel (BitVec.ofNat 16 x) (BitVec.ofNat 16 y) (BitVec.ofNat 16 color))
    else .error .doesNotFit
  | _ => .error .operandCount

/-- A mnemonic's request. -/
def asmRequest (m : List Char) (ns : List Nat) : Except AsmError Instr :=
  if m = ['C', 'O', 'N', 'S', 'T', 'R', 'U', 'C', 'T'] then asmConstruct ns
  else if m = ['I', 'N', 'I', 'T'] then asmInit ns
  else if m = ['F', 'I', 'L', 'L', '_', 'S', 'C', 'R', 'E', 'E', 'N'] then asmFillScreen ns
  else if m = ['F', 'I', 'L', 'L', '_', 'R', 'E', 'C', 'T'] then asmFillRect ns
  else if m = ['D', 'R', 'A', 'W', '_', 'P', 'I', 'X', 'E', 'L'] then asmDrawPixel ns
  else .error .badLine

/-- One line of assembly text: `;` starts a comment, an empty line is none (30_encoding.md R82). -/
def assemble (line : List Char) : Except AsmError (Option Instr) :=
  let text := asmTrim (line.takeWhile (· != ';'))
  if text = [] then .ok none
  else
    match asmOperands (text.dropWhile (· != ' ')) with
    | none => .error .badLine
    | some ns => (asmRequest (text.takeWhile (· != ' ')) ns).map some

/-- One item of a trace listing (30_encoding.md R84). -/
inductive Listed where
  /-- `C:bb`. -/
  | c (b : Byte)
  /-- `D:bb bb ...`. -/
  | d (bytes : List Byte)
  /-- `D:{hh ll}×n`. -/
  | px (hi lo : Byte) (n : Nat)
  /-- `rst=v`. -/
  | rst (v : Level)
  /-- `sleep t`. -/
  | sleep (ms : Nat)
  /-- `outcfg l`. -/
  | outcfg (l : Line)
  /-- `buscfg r`. -/
  | buscfg (r : BitRate)
  deriving DecidableEq, Repr

/-- The events an item stands for (30_encoding.md R84). -/
def Listed.events (p : Params) (cfg : Cfg) : Listed → List Event
  | .c b => txn p .low [b]
  | .d bytes => txn p .high bytes
  | .px hi lo n => txn p .high (pixelBytes hi lo n)
  | .rst v => [.set .rst v]
  | .sleep ms => [.sleep ms]
  | .outcfg l => [.outCfg l]
  | .buscfg r => [.busCfg r cfg.sckId cfg.mosiId]

/-- The events of a whole listing. -/
def listing (p : Params) (cfg : Cfg) (items : List Listed) : List Event :=
  items.flatMap (Listed.events p cfg)

end Sys2Proof.Machine
end

