-- ==== Sys2Proof/Machine/Observe.lean ====
section
/-! DEFINITION. What a test can observe of a trace through a fake transport (60_exceptions.md R180). -/

namespace Sys2Proof.Machine

/-- The bytes a trace transmits, in order. -/
def bytesSent : List Event → List Byte
  | [] => []
  | .tx b :: es => b :: bytesSent es
  | .busCfg _ _ _ :: es => bytesSent es
  | .outCfg _ :: es => bytesSent es
  | .set _ _ :: es => bytesSent es
  | .sleep _ :: es => bytesSent es

/-- The delays of a trace, added up (40_init.md R102). -/
def sleepTotal : List Event → Nat
  | [] => 0
  | .sleep t :: es => t + sleepTotal es
  | .busCfg _ _ _ :: es => sleepTotal es
  | .outCfg _ :: es => sleepTotal es
  | .set _ _ :: es => sleepTotal es
  | .tx _ :: es => sleepTotal es

/-- How many transactions a trace opens: the times it drives chip-select active (41_framer.md R110). -/
def transactions (p : Params) (es : List Event) : Nat := es.count (.set .cs p.csActive)

/-- The bytes sent with mode-select low, in order, `m` being the mode before the trace (30_encoding.md R73). -/
def commandBytes (m : Level) : List Event → List Byte
  | [] => []
  | .set .dc m' :: es => commandBytes m' es
  | .tx b :: es => if m = .low then b :: commandBytes m es else commandBytes m es
  | .set .cs _ :: es => commandBytes m es
  | .set .rst _ :: es => commandBytes m es
  | .busCfg _ _ _ :: es => commandBytes m es
  | .outCfg _ :: es => commandBytes m es
  | .sleep _ :: es => commandBytes m es

/-- Where a framing check stands: outside a transaction, just after a mode-select, or inside one with its
mode and the bytes so far. -/
inductive Framing where
  | outside
  | armed (mode : Level)
  | inside (mode : Level) (n : Nat)
  deriving DecidableEq, Repr

/-- The framing properties of 41_framer.md R115: (a) every byte inside a chip-select pair, (b) nothing else
inside one, (c) a mode-select immediately before each assert, (d) one byte in command mode. -/
def framedFrom (p : Params) : Framing → List Event → Bool
  | .outside, [] => true
  | .armed _, [] => true
  | .inside _ _, [] => false
  | .outside, .set .dc m :: es => framedFrom p (.armed m) es
  | .outside, .set .cs _ :: _ => false
  | .outside, .tx _ :: _ => false
  | .outside, _ :: es => framedFrom p .outside es
  | .armed m, .set .cs v :: es => v == p.csActive && framedFrom p (.inside m 0) es
  | .armed _, .set .dc m :: es => framedFrom p (.armed m) es
  | .armed _, .tx _ :: _ => false
  | .armed _, _ :: es => framedFrom p .outside es
  | .inside m n, .tx _ :: es => framedFrom p (.inside m (n + 1)) es
  | .inside m n, .set .cs v :: es =>
    v == p.csActive.flip && (m == .high || n == 1) && framedFrom p .outside es
  | .inside _ _, _ :: _ => false

/-- A whole trace framed as 41_framer.md R115 says. -/
def framed (p : Params) (es : List Event) : Bool := framedFrom p .outside es

/-- The level a trace leaves a line at, as the block drives it (10_state.md R28). -/
def lastLevel (l : Line) (es : List Event) (v : LineState) : Known Level :=
  (es.foldl (fun v e => v.after l e) v).level

/-- The level a trace leaves the controller's view of the reset line at: `Set` events alone change it
(44_controller.md R143). -/
def lastRst (es : List Event) (v : Known Level) : Known Level :=
  match es with
  | [] => v
  | .set .rst lv :: es => lastRst es (.known lv)
  | .set .cs _ :: es => lastRst es v
  | .set .dc _ :: es => lastRst es v
  | .busCfg _ _ _ :: es => lastRst es v
  | .outCfg _ :: es => lastRst es v
  | .tx _ :: es => lastRst es v
  | .sleep _ :: es => lastRst es v

/-- The events the operation being performed has still to emit (10_state.md R25). -/
def State.remaining (s : State) : List Event :=
  match s.seq with
  | .idle => []
  | .busy i k => (traceOf s.par s.cfg i).drop k

end Sys2Proof.Machine
end

