-- ==== Sys2Proof/Safety.lean ====
section
/-! DEFINITION. What claims are stated in: the premises of 70_reset_and_hazards.md R202, the states of the
controller that 44_controller.md names, the end of a run, and the machine's invariant. -/

namespace Sys2Proof

/-- "The ten values must be pairwise distinct" (30_encoding.md R76). -/
abbrev CmdTable.Distinct (t : CmdTable) : Prop :=
  [t.swreset, t.slpout, t.colmod, t.madctl, t.invoff, t.invon, t.dispon, t.caset, t.raset,
    t.ramwr].Nodup

/-- A parameter table of this hardware: distinct commands (30_encoding.md R76) and delays no shorter than
the source's minimums (40_init.md R101). -/
abbrev Params.Ok (p : Params) : Prop :=
  p.cmds.Distinct ∧ 100 ≤ p.tPwr ∧ 100 ≤ p.tRstLo ∧ 100 ≤ p.tRstRec ∧ 150 ≤ p.tSwReset ∧
    120 ≤ p.tSlpOut ∧ 100 ≤ p.tDispOn

/-- "The block's delays meet every one" of the observer's thresholds (44_controller.md R161). -/
abbrev Params.Timely (p : Params) : Prop :=
  p.obsRstLo ≤ p.tRstLo ∧ p.obsRstRec ≤ p.tRstRec ∧ p.obsSwReset ≤ p.tSwReset ∧
    p.obsSlpOut ≤ p.tSlpOut ∧ p.obsDispOn ≤ p.tDispOn

/-- A request (30_encoding.md R64), not a micro-op or a command. -/
def Instr.isRequest : Instr → Bool
  | .construct _ _ _ _ _ _ => true
  | .init _ => true
  | .fillScreen _ => true
  | .fillRect _ _ _ _ _ => true
  | .drawPixel _ _ _ => true
  | .writeCommand _ => false
  | .writeData _ => false
  | .writeDataBuf _ => false
  | .setWindow _ _ _ _ => false
  | .pixelStream _ _ _ => false
  | .swreset => false
  | .slpout => false
  | .colmod _ => false
  | .madctl _ => false
  | .invoff => false
  | .invon => false
  | .dispon => false
  | .caset _ _ => false
  | .raset _ _ => false
  | .ramwr _ => false

/-- A drawing request (43_drawing.md R125). -/
def Instr.isDrawing : Instr → Bool
  | .fillScreen _ => true
  | .fillRect _ _ _ _ _ => true
  | .drawPixel _ _ _ => true
  | .construct _ _ _ _ _ _ => false
  | .init _ => false
  | .writeCommand _ => false
  | .writeData _ => false
  | .writeDataBuf _ => false
  | .setWindow _ _ _ _ => false
  | .pixelStream _ _ _ => false
  | .swreset => false
  | .slpout => false
  | .colmod _ => false
  | .madctl _ => false
  | .invoff => false
  | .invon => false
  | .dispon => false
  | .caset _ _ => false
  | .raset _ _ => false
  | .ramwr _ => false

/-- The instructions that send no pixel byte: they store nothing in the frame memory. -/
def Instr.sendsNoPixel : Instr → Bool
  | .construct _ _ _ _ _ _ => true
  | .init _ => true
  | .writeCommand _ => true
  | .setWindow _ _ _ _ => true
  | .swreset => true
  | .slpout => true
  | .colmod _ => true
  | .madctl _ => true
  | .invoff => true
  | .invon => true
  | .dispon => true
  | .caset _ _ => true
  | .raset _ _ => true
  | .fillScreen _ => false
  | .fillRect _ _ _ _ _ => false
  | .drawPixel _ _ _ => false
  | .writeData _ => false
  | .writeDataBuf _ => false
  | .pixelStream _ _ _ => false
  | .ramwr _ => false

end Sys2Proof

namespace Sys2Proof.Machine

/-- `P_DISTINCT` (70_reset_and_hazards.md R202): the five line ids pairwise distinct. -/
abbrev Cfg.Distinct (c : Cfg) : Prop := [c.csId, c.dcId, c.rstId, c.sckId, c.mosiId].Nodup

/-- The port idle after a CONSTRUCT (`P_FRESH`), and every port event completing (`P_PORTS_OK`)
(70_reset_and_hazards.md R202). -/
abbrev State.Fresh (s : State) : Prop := s.seq = .idle ∧ s.constructed = true ∧ s.hang = none

/-- The premises of a claim about the controller (70_reset_and_hazards.md R202) that are facts of a state:
`P_FRESH`, `P_PORTS_OK`, `P_NO_UB`, `P_DISTINCT`, `P_OBS_CLEAN`, and `P_PARAMS` for any table of this hardware
whose delays meet the observer's thresholds, the default one among them. `P_NO_UB` is a fact of the run's end: a
claim about the state after an instruction takes `ub = false` of that state too, unless it follows from this one,
as it does where the instruction marks nothing. `P_HONEST_DELAY` and `P_EXCLUSIVE` are about the world outside and
are taken by every such claim. -/
abbrev State.Premises (s : State) : Prop :=
  s.Fresh ∧ s.ub = false ∧ Cfg.Distinct s.cfg ∧ s.par.Ok ∧ s.par.Timely ∧ s.ctl.bad = false

/-- The controller is *initialized* (44_controller.md R162). -/
abbrev Ctl.Initialized (p : Params) (invert : Bool) (o : Ctl) : Prop :=
  o.bad = false ∧ o.resetDone = .known true ∧ o.rst = .known .high ∧ o.sleep = .known .awake ∧
    o.disp = .known .on ∧ o.colmod = .known p.colmod16bpp ∧ o.madctl = .known p.madctlNormal ∧
    o.inv = .known (if invert then .on else .off)

/-- The controller takes a command byte (44_controller.md R143): a reset done, the reset line high, no
settling time left, nothing pending. -/
abbrev Ctl.Accepts (o : Ctl) : Prop :=
  o.bad = false ∧ o.resetDone = .known true ∧ o.rst = .known .high ∧ o.quiet = .known 0 ∧
    o.complete = true

/-- No settling time and no byte pending (44_controller.md R164). -/
abbrev Ctl.AtRest (o : Ctl) : Prop :=
  o.quiet = .known 0 ∧ o.half = .known none ∧ o.complete = true

/-- The state after a trace whose last transaction has mode-select at `mode` (41_framer.md R110; 10_state.md
R43): mode-select there, chip-select not active, the events on the trace and seen by the controller, all else
as it was. -/
def State.afterTxns (s : State) (mode : Level) (es : List Event) : State :=
  { s with
    trace := s.trace ++ es
    cs := { s.cs with level := .known s.par.csActive.flip }
    dc := { s.dc with level := .known mode }
    ctl := s.ctl.run s.par es }

/-- `n` cells from `(c, r)` on, column first, from the last column `xe` back to `xs` and one row down
(44_controller.md R157). -/
def cellsFrom (xs xe c r : Nat) : Nat → List (Nat × Nat)
  | 0 => []
  | n + 1 => (c, r) :: (if xe < c + 1 then cellsFrom xs xe xs (r + 1) n else cellsFrom xs xe (c + 1) r n)

/-- The cells the next `n` data bytes can store to: none outside RAMWR or with the cursor UNKNOWN, else one
for each pair of bytes, a pending high byte counted in, from the cursor on (44_controller.md R157). -/
def Ctl.storedCells (o : Ctl) (n : Nat) : List (Nat × Nat) :=
  match o.cmd, o.xs, o.xe, o.cx, o.cy with
  | .cmd .ramwr, .known xs, .known xe, .known cx, .known cy =>
    cellsFrom xs.toNat xe.toNat cx cy
      ((n + (match o.half with | .known (some _) => 1 | .known none => 0 | .unknown => 0)) / 2)
  | _, _, _, _, _ => []

/-- The address is none of the two bytes of any of the cells. -/
abbrev OutsideCells (cells : List (Nat × Nat)) (a : Nat) : Prop :=
  ∀ q ∈ cells, a ≠ cellAddr q.1 q.2 ∧ a ≠ cellAddr q.1 q.2 + 1

/-- SET_WINDOW's precondition (42_window.md R119, R121). -/
abbrev WindowOk (x0 y0 x1 y1 : Word16) : Prop :=
  x0.toNat ≤ x1.toNat ∧ x1.toNat < panelWidth ∧ y0.toNat ≤ y1.toNat ∧ y1.toNat < panelHeight

/-- What screen pixel `(x, y)` shows on a panel with the given `VISIBLE`, while the controller is initialized
(44_controller.md R163): that function of the inversion state and the cell. UNKNOWN for a pixel off the panel, of
which the spec has none (DESIGN CHOICE; Log 34), and for a controller that is not initialized. -/
def State.panelShowsOn (visible : OnOff → Word16 → Rgb565) (s : State) (x y : Nat) : Known Rgb565 :=
  if Ctl.Initialized s.par s.cfg.invert s.ctl then
    match s.ctl.inv with
    | .known v => (s.ctl.fb.cell x y).map (visible v)
    | .unknown => .unknown
  else .unknown

/-- What screen pixel `(x, y)` shows, with `VISIBLE` OPEN (44_controller.md R163; Log 23). -/
def State.panelShows (s : State) (x y : Nat) : Known Rgb565 := s.panelShowsOn Config.visible x y

/-- A panel "for which the configured `invert` is the right choice" (44_controller.md R163): its `VISIBLE` of the
inversion state INIT sets is the colour decoded as 5-6-5 (41_framer.md R117). -/
abbrev RightInversion (visible : OnOff → Word16 → Rgb565) (invert : Bool) : Prop :=
  ∀ v, visible (if invert then .on else .off) v = rgb565 v

/-- A run has ended successfully (60_exceptions.md R182): it has begun with CONSTRUCT, and every request has been
accepted and its trace emitted. -/
abbrev State.Ended (s : State) : Prop := s.constructed = true ∧ s.seq = .idle ∧ s.inbox = []

/-- The controller's column and row ranges are known both or neither, and ordered and on the panel when they
are (44_controller.md R154, R155, R160). -/
abbrev Ctl.WindowKept (o : Ctl) : Prop :=
  (match o.xs, o.xe with
    | .known s, .known e => s.toNat ≤ e.toNat ∧ e.toNat < panelWidth
    | .unknown, .unknown => True
    | _, _ => False) ∧
  (match o.ys, o.ye with
    | .known s, .known e => s.toNat ≤ e.toNat ∧ e.toNat < panelHeight
    | .unknown, .unknown => True
    | _, _ => False)

/-- While RAMWR is current the cursor is known where the window is, in the window's columns and at most one row
below its last (44_controller.md R156, R157, R158). -/
abbrev Ctl.CursorKept (o : Ctl) : Prop :=
  o.cmd = .cmd .ramwr →
    (match o.xs, o.xe, o.cx with
      | .known s, .known e, .known c => s.toNat ≤ c ∧ c ≤ e.toNat
      | .unknown, .unknown, .unknown => True
      | _, _, _ => False) ∧
    (match o.ys, o.ye, o.cy with
      | .known s, .known e, .known c => s.toNat ≤ c ∧ c ≤ e.toNat + 1
      | .unknown, .unknown, .unknown => True
      | _, _, _ => False)

/-- Unless a premise has failed, the fields whose power-on value is known are known (44_controller.md R142). -/
abbrev Ctl.CountersKnown (o : Ctl) : Prop :=
  o.bad = false → o.resetDone ≠ .unknown ∧ o.lowMs ≠ .unknown ∧ o.quiet ≠ .unknown ∧
    o.params ≠ .unknown ∧ o.half ≠ .unknown

/-- With a premise failed every other field is UNKNOWN (44_controller.md R142). -/
abbrev Ctl.BadIsBlank (o : Ctl) : Prop := o.bad = true → o = Ctl.broken

/-- The operation this step is about: the one the sequencer performs, or the one it takes from the host. -/
def State.Performs (s : State) (i : Instr) : Prop :=
  (∃ k, s.seq = .busy i k) ∨
    (s.seq = .idle ∧ ∃ w rest, s.inbox = w :: rest ∧ decode s.par.cmds w = .ok i)

/-- The sequencer's position lies in its operation's trace (10_state.md R25); an empty trace has position 0
alone (R26). -/
abbrev State.PositionOk (s : State) : Prop :=
  match s.seq with
  | .idle => True
  | .busy i k => k = 0 ∨ k < (traceOf s.par s.cfg i).length

/-- The events still to come leave chip-select not active (10_state.md R44). -/
abbrev State.SelectReleased (s : State) : Prop :=
  lastLevel .cs s.remaining s.cs ≠ .known s.par.csActive

/-- The events still to come leave the controller's reset line not low (40_init.md R92). -/
abbrev State.ResetReleased (s : State) : Prop := lastRst s.remaining s.ctl.rst ≠ .known .low

/-- The invariant of the machine: the frame memory canonical, a `bad` controller blank and another one's counters
known, the controller's window on the panel and its cursor by the window, the sequencer's position in its trace,
chip-select and the reset line released when the work is done. -/
abbrev State.Inv (s : State) : Prop :=
  s.ctl.fb.wf ∧ s.ctl.BadIsBlank ∧ s.ctl.CountersKnown ∧ s.ctl.WindowKept ∧ s.ctl.CursorKept ∧
    s.PositionOk ∧ s.SelectReleased ∧ s.ResetReleased

end Sys2Proof.Machine
end

