-- ==== Sys2Proof/Certificates/Slice0/Obligations.lean ====
section
/-! DEFINITION. The statements for the provers, from the numbered rules of spec/.

A claim about what state the controller is in takes all eight premises of 70_reset_and_hazards.md R202: six are
facts of the state, in `State.Premises`; `P_HONEST_DELAY` and `P_EXCLUSIVE` are about the world outside the model
and are taken by each. `P_NO_UB` holds at the END of the run (10_state.md R27): a claim about the state `t` after
an instruction takes `t.ub = false`, or says it, or is of an instruction that marks nothing. A statement of the
observer's own rules, that it sees the events of a trace, what an event does to it and when it goes `bad` and so
claims nothing of the chip any more, is no such claim: it names the premises it takes, and is said of every state.
A claim about the block alone takes `P_FRESH` and, where ports must complete, `P_PORTS_OK`. -/

open Sys2Proof Sys2Proof.Machine

/-! ## Encodings -/

/-- Decode and encode agree at all three levels (30_encoding.md R66, R71, R75, R76, R85). The binary form of a
micro-op's arguments is the model's choice (Log 6). -/
def Obligations.DecodeOfEncodeIsTheInstruction : Prop :=
  ∀ (t : CmdTable) (i : Instr), t.Distinct → i.wf = true → decode t (encode t i) = .ok i

/-- 30_encoding.md R85: a request word decodes to a request exactly when it is that request's word, and every
other word is refused by the name its bits give. -/
def Obligations.RequestDecoding : Prop :=
  ∀ (t : CmdTable) (q : RequestWord),
    (∀ i : Instr, decodeRequest q = .ok i ↔
      (i.isRequest = true ∧ i.wf = true ∧ encode t i = .request q)) ∧
    (5 ≤ (q.extractLsb' 0 8).toNat → decodeRequest q = .error .reservedOpcode) ∧
    (q.extractLsb' 0 8 = 0 → q.extractLsb' 9 7 ≠ 0 → decodeRequest q = .error .reservedBits) ∧
    (q.extractLsb' 0 8 = 1 → (q.extractLsb' 8 8 ≠ 0 ∨ q.extractLsb' 48 48 ≠ 0) →
      decodeRequest q = .error .reservedBits) ∧
    (q.extractLsb' 0 8 = 1 → q.extractLsb' 8 8 = 0 → q.extractLsb' 48 48 = 0 →
      q.extractLsb' 16 32 = 0 → decodeRequest q = .error .zeroBitRate) ∧
    (q.extractLsb' 0 8 = 2 → (q.extractLsb' 8 8 ≠ 0 ∨ q.extractLsb' 32 64 ≠ 0) →
      decodeRequest q = .error .reservedBits) ∧
    (q.extractLsb' 0 8 = 3 → q.extractLsb' 8 8 ≠ 0 → decodeRequest q = .error .reservedBits) ∧
    (q.extractLsb' 0 8 = 4 → (q.extractLsb' 8 8 ≠ 0 ∨ q.extractLsb' 64 32 ≠ 0) →
      decodeRequest q = .error .reservedBits)

/-- The words of 95_test_vectors.md section 2 and command bytes of 30_encoding.md R76, as they decode. The default
command bytes the spec marks as general knowledge (Log 5), and the form of a micro-op's arguments is the model's
choice (Log 6). -/
def Obligations.WordsOfTheSpecDecode : Prop :=
  decodeRequest 0x001300120014001000110100 = .ok (.construct 17 16 20 18 19 true) ∧
  decodeRequest 0x00000000000000F424000001 = .ok (.init 16000000) ∧
  decodeRequest 0x0000000000000000F8000002 = .ok (.fillScreen 0xF800) ∧
  decodeRequest 0x1234000200030014000A0003 = .ok (.fillRect 10 20 3 2 0x1234) ∧
  decodeRequest 0x00000000FFFF0014000A0004 = .ok (.drawPixel 10 20 0xFFFF) ∧
  decodeRequest 0x000000000000000000000010 = .error .reservedOpcode ∧
  decodeMicro [0x10, 0x2C] = .ok (.writeCommand 0x2C) ∧
  decodeCommand defaultCmds 0x2A [0x00, 0xEB, 0x00, 0xEF] = .caset 235 239

/-- 41_framer.md R116: the two bytes of a colour and the colour of its two bytes; R117: red, green and blue are
bits 15 to 11, 10 to 5 and 4 to 0; R118: a window register's payload is start then end, high byte first. -/
def Obligations.ColourAndAddressBytes : Prop :=
  ∀ c e : Word16,
    (hiByte c).toNat = c.toNat >>> 8 ∧ (loByte c).toNat = c.toNat &&& 0xFF ∧
    (hiByte c).toNat <<< 8 ||| (loByte c).toNat = c.toNat ∧
    (rgb565 c).red.toNat = c.toNat / 2048 ∧ (rgb565 c).green.toNat = c.toNat / 32 % 64 ∧
    (rgb565 c).blue.toNat = c.toNat % 32 ∧
    enc16 c = [hiByte c, loByte c] ∧ encPair c e = [hiByte c, loByte c, hiByte e, loByte e]

/-! ## The machine -/

/-- The state at power-on: the sequencer IDLE, no mark, the lines and bus unconfigured (10_state.md R41) and
the observer's power-on value in every field (44_controller.md R142). The configuration registers and the
driver state before the first CONSTRUCT are the model's choice (Log 2) and are not stated. -/
def Obligations.PowerOnState : Prop :=
  State.reset.seq = .idle ∧ State.reset.ub = false ∧ State.reset.constructed = false ∧
  State.reset.cs = ⟨false, .unknown⟩ ∧ State.reset.dc = ⟨false, .unknown⟩ ∧
  State.reset.rst = ⟨false, .unknown⟩ ∧ State.reset.bus = .none ∧
  State.reset.ctl = ⟨false, .unknown, .unknown, .unknown, .known false, .known 0, .known 0, .unknown,
    .known [], .unknown, .unknown, .unknown, .unknown, .unknown, .unknown, .unknown, .unknown,
    .unknown, .unknown, .unknown, .known none, []⟩ ∧
  ∀ c r, State.reset.ctl.fb.cell c r = .unknown

/-- A step of an idle machine is `exec` of the instruction the host presents next, with that taken from the host's
list; what does not decode is refused by name. A command byte whose data are no command of the block is sent by
itself, its data bytes presented after it. The model's choices: that the step is the whole `exec` and not the
acceptance of 10_state.md R33 is Log 1; that a word is refused by its decode name also before the first CONSTRUCT is
Log 19; the sending of other command bytes is Log 8. -/
def Obligations.StepRunsTheDecodedInstruction : Prop :=
  ∀ (s : State) (w : Presented) (rest : List Presented), s.seq = .idle → s.inbox = w :: rest →
    (∀ i, decode s.par.cmds w = .ok i →
      step s = exec i { s with inbox := leftover s.par.cmds w ++ rest }) ∧
    (∀ e, decode s.par.cmds w = .error e → step s = .refused (refusalOf e)) ∧
    (∀ code data, w = .command code data → commandOf s.par.cmds code data = none →
      step s = exec (.writeCommand code)
        { s with inbox := data.map (fun b => .micro [0x11, b]) ++ rest }) ∧
    ((∀ code data, w = .command code data → commandOf s.par.cmds code data ≠ none) →
      leftover s.par.cmds w = [])

/-- 10_state.md R26: at position `(i, k)` a step emits event `k` and advances. That the step of the last event also
applies the final update (for INIT, READY) and goes IDLE is the model's reading (Log 29). -/
def Obligations.SequencerEmitsOneEventAStep : Prop :=
  ∀ (s : State) (i : Instr) (k : Nat) (e : Event) (rest : List Event),
    s.seq = .busy i k → (traceOf s.par s.cfg i).drop k = e :: rest → s.hang = none →
    ∃ t, step s = .next t ∧ t.trace = s.trace ++ [e] ∧ t.inbox = s.inbox ∧ t.ubMarks = s.ubMarks ∧
      t.cfg = s.cfg ∧ t.ctl = s.ctl.event s.par e ∧
      t.seq = (if rest = [] then .idle else .busy i (k + 1)) ∧
      t.drv = (if rest = [] ∧ (∃ r, i = .init r) then .ready else s.drv)

/-- 10_state.md R26: an operation whose trace is empty goes to IDLE in one step that emits nothing. -/
def Obligations.EmptyTraceGoesIdleInOneStep : Prop :=
  ∀ (s : State) (i : Instr), traceOf s.par s.cfg i = [] →
    ∃ t, step (accepted i s) = .next t ∧ t.seq = .idle ∧ t.trace = s.trace ∧ t.ctl = s.ctl

/-- 10_state.md R26: the sequencer's one-event steps, from the state right after acceptance, and the coarse
form `run` agree. How many steps there are is the model's reading (Log 29). -/
def Obligations.OneEventStepsAgreeWithExec : Prop :=
  ∀ (i : Instr) (s t : State), s.hang = none → exec i s = .next t →
    ticks (max 1 (traceOf s.par s.cfg i).length) (accepted i s) = t

/-- 10_state.md R33: while the sequencer is not IDLE nothing is taken from the host. That `exec` answers a refusal
then is the model's choice (Log 9, from 93_implementation_defined.md U9). -/
def Obligations.BusyPortAcceptsNothing : Prop :=
  ∀ s : State, s.seq ≠ .idle →
    (∀ t, step s = .next t → t.inbox = s.inbox) ∧ ∀ i, ∃ r, exec i s = .refused r

/-- 70_reset_and_hazards.md R199: a port that never completes holds the sequencer for ever. That such a port is data
of the state is the model's form (Log 4). -/
def Obligations.HeldPortHoldsTheBlock : Prop :=
  ∀ (s : State) (i : Instr) (k : Nat), s.seq = .busy i k → k < (traceOf s.par s.cfg i).length →
    s.hang = some 0 → ∀ n, core.run n s = .next s

/-- 70_reset_and_hazards.md R199: where a port stops completing after `n` events, an operation with more
events stops at event `n`. That the place is data of the state is the model's form (Log 4). -/
def Obligations.HangStopsAnOperationMidTrace : Prop :=
  ∀ (i : Instr) (s t : State) (n : Nat), s.hang = some n → n < (traceOf s.par s.cfg i).length →
    exec i s = .next t →
    t.seq = .busy i n ∧ t.trace = s.trace ++ (traceOf s.par s.cfg i).take n ∧ t.hang = some 0

/-- 20_memory.md R58: a step appends to the trace and changes nothing of it. -/
def Obligations.TraceOnlyGrows : Prop :=
  ∀ s t : State, step s = .next t → s.trace <+: t.trace

/-- The invariant holds at power-on. -/
def Obligations.InvariantAtPowerOn : Prop := State.reset.Inv

/-- Every step keeps the invariant, from every state that meets it: the frame memory canonical, a `bad`
controller blank and another one's counters known (44_controller.md R142), its window on the panel (R154, R155)
and in RAMWR its cursor by the window (R156, whose cursor place is Log 18; R157), the sequencer's position in its
trace (10_state.md R25), and chip-select (R44) and the reset line (40_init.md R92) released when the work is
done. -/
def Obligations.EveryStepKeepsTheInvariant : Prop :=
  ∀ s t : State, s.Inv → step s = .next t → t.Inv

/-- 10_state.md R27: the UB flag is 0 at a run's first CONSTRUCT, sticky from then on, and set in exactly these
cases: a step that takes nothing from the host leaves it as it was. -/
def Obligations.UbFlag : Prop :=
  ∀ s t : State, step s = .next t →
    (s.constructed = true → s.ub = true → t.ub = true ∧ t.constructed = true) ∧
    (s.constructed = true → s.seq ≠ .idle ∨ s.inbox = [] → t.ub = s.ub) ∧
    ∀ (w : Presented) (rest : List Presented) (i : Instr),
      s.seq = .idle → s.inbox = w :: rest → decode s.par.cmds w = .ok i →
      (s.constructed = false → (∃ cs dc rst sck mosi v, i = .construct cs dc rst sck mosi v) →
        t.ub = false) ∧
      (s.constructed = true →
        (t.ub = true ↔ s.ub = true ∨ (i.isDrawing = true ∧ s.drv = .unconfigured) ∨
          ((∃ r, i = .init r) ∧ s.drv = .ready)))

/-- 10_state.md R24: the driver state is written by CONSTRUCT and by INIT's completion alone. -/
def Obligations.DriverStateChangesInTwoPlaces : Prop :=
  ∀ s t : State, step s = .next t → t.drv ≠ s.drv →
    (∃ cs dc rst sck mosi v, s.Performs (.construct cs dc rst sck mosi v) ∧ t.drv = .unconfigured) ∨
    (∃ r, s.Performs (.init r) ∧ t.drv = .ready ∧ t.seq = .idle)

/-- 10_state.md R20: the configuration is written only by construction, and the parameters by nothing (R40). -/
def Obligations.ConfigurationWrittenByConstructAlone : Prop :=
  ∀ s t : State, step s = .next t →
    t.par = s.par ∧
    (t.cfg ≠ s.cfg → ∃ cs dc rst sck mosi v,
      s.Performs (.construct cs dc rst sck mosi v) ∧ t.cfg = ⟨cs, dc, rst, sck, mosi, v⟩)

/-- 60_exceptions.md R182, R170: a run is a list of requests that starts with CONSTRUCT; it ends successfully when all
have been performed, and at the first refused one with that refusal. That the words take one step each is the
model's count, since an idle step performs a request whole (Log 1), and that the host's words stand in a list is its
form (Log 3). Premises `P_FRESH`, `P_PORTS_OK`. -/
def Obligations.RunsEnd : Prop :=
  ∀ (s : State) (first : RequestWord) (ws : List RequestWord), s.seq = .idle → s.hang = none →
    s.inbox = [] →
    (∃ cs dc rst sck mosi v, decodeRequest first = .ok (.construct cs dc rst sck mosi v)) →
    ((∀ q ∈ ws, ∃ i, decodeRequest q = .ok i) →
      ∃ t, core.run (ws.length + 1) (s.load (first :: ws)) = .next t ∧ t.Ended) ∧
    ∀ pre q post e, ws = pre ++ q :: post → (∀ q' ∈ pre, ∃ i, decodeRequest q' = .ok i) →
      decodeRequest q = .error e →
      core.run (pre.length + 2) (s.load (first :: ws)) = .refused (refusalOf e)

/-! ## Requests -/

/-- 40_init.md R87: CONSTRUCT loads the configuration, resets the dynamic state and touches no hardware. -/
def Obligations.ConstructLoadsAndResets : Prop :=
  ∀ (s : State) (cs dc rst sck mosi : LineId) (v : Bool), s.seq = .idle →
    exec (.construct cs dc rst sck mosi v) s = .next
      { s with
        constructed := true, cfg := ⟨cs, dc, rst, sck, mosi, v⟩, drv := .unconfigured, seq := .idle,
        ubMarks := (if s.constructed = true then s.ubMarks else []),
        cs := ⟨false, .unknown⟩, dc := ⟨false, .unknown⟩, rst := ⟨false, .unknown⟩, bus := .none }

/-- 40_init.md R99: INIT's nine steps in order, the state they leave (10_state.md R42), and the mark of a
second INIT (R89); a rate of 0 is refused. -/
def Obligations.InitRunsTheNineSteps : Prop :=
  ∀ (s : State) (r : BitRate), s.Fresh →
    exec (.init r) s = if r = 0 then .refused .zeroBitRate else .next
      { s.afterTxns .low (listing s.par s.cfg
          [.buscfg r, .outcfg .cs, .outcfg .dc, .outcfg .rst,
            .rst .high, .sleep s.par.tPwr, .rst .low, .sleep s.par.tRstLo, .rst .high,
            .sleep s.par.tRstRec,
            .c s.par.cmds.swreset, .sleep s.par.tSwReset,
            .c s.par.cmds.slpout, .sleep s.par.tSlpOut,
            .c s.par.cmds.colmod, .d [s.par.colmod16bpp],
            .c s.par.cmds.madctl, .d [s.par.madctlNormal],
            .c (if s.cfg.invert = true then s.par.cmds.invon else s.par.cmds.invoff),
            .c s.par.cmds.dispon, .sleep s.par.tDispOn]) with
        drv := .ready
        ubMarks := s.ubMarks ++ (if s.drv = .ready then [.initTwice] else [])
        bus := .rate r
        cs := ⟨true, .known s.par.csActive.flip⟩
        dc := ⟨true, .known .low⟩
        rst := ⟨true, .known .high⟩ }

/-- 40_init.md R107: INIT's 45 events by kind; R103: its eight transactions, six of them commands, its bytes in
order, and three command bytes before the first data byte. -/
def Obligations.InitTraceCounts : Prop :=
  ∀ (p : Params) (c : Cfg) (r : BitRate), let tr := initTrace p c r
    let inversion := if c.invert = true then p.cmds.invon else p.cmds.invoff
    tr.length = 45 ∧ tr.countP (· matches .busCfg _ _ _) = 1 ∧ tr.countP (· matches .outCfg _) = 3 ∧
    tr.countP (· matches .set .rst _) = 3 ∧ tr.countP (· matches .sleep _) = 6 ∧
    tr.countP (· matches .tx _) = 8 ∧
    tr.countP (· matches .set .cs _) + tr.countP (· matches .set .dc _) = 24 ∧
    transactions p tr = 8 ∧
    (∀ m, commandBytes m tr =
      [p.cmds.swreset, p.cmds.slpout, p.cmds.colmod, p.cmds.madctl, inversion, p.cmds.dispon]) ∧
    bytesSent tr = [p.cmds.swreset, p.cmds.slpout, p.cmds.colmod, p.colmod16bpp, p.cmds.madctl,
      p.madctlNormal, inversion, p.cmds.dispon] ∧
    (∀ m, commandBytes m (tr.take 26) = bytesSent (tr.take 26)) ∧
    bytesSent (tr.take 26) = [p.cmds.swreset, p.cmds.slpout, p.cmds.colmod] ∧
    tr[26]? = some (.tx p.colmod16bpp)

/-- 40_init.md R102: the six delays of INIT sum to 670 ms with the default parameters. -/
def Obligations.InitDelaysSumTo670 : Prop :=
  (∀ (c : Cfg) (r : BitRate), sleepTotal (initTrace defaultParams c r) = 670) ∧
  ∀ (p : Params) (c : Cfg) (r : BitRate), p.Ok → 670 ≤ sleepTotal (initTrace p c r)

/-- 30_encoding.md R68: INIT with rate 0 is refused, and every request but CONSTRUCT before the run's first
CONSTRUCT. That INIT 0 is ZeroBitRate also before the first CONSTRUCT is Log 19, and while busy Log 9. -/
def Obligations.RequestsRefusedByThePort : Prop :=
  ∀ s : State,
    exec (.init 0) s = .refused .zeroBitRate ∧
    (s.seq = .idle → s.constructed = false → ∀ (r : BitRate) (x y w h c : Word16), r ≠ 0 →
      exec (.init r) s = .refused .notConstructed ∧
      exec (.fillScreen c) s = .refused .notConstructed ∧
      exec (.fillRect x y w h c) s = .refused .notConstructed ∧
      exec (.drawPixel x y c) s = .refused .notConstructed)

/-- 43_drawing.md R126: FILL_RECT on the panel with an area programs the clipped window (R127) and streams one
pixel value; outside the panel or with no area it emits nothing (R128) and is no error (R140); either way it
marks UB before INIT (R125). -/
def Obligations.FillRectSendsTheClippedRectangle : Prop :=
  ∀ (s : State) (x y w h color : Word16), s.Fresh →
    let marks := s.ubMarks ++ (if s.drv = .unconfigured then [.drawBeforeInit] else [])
    exec (.fillRect x y w h color) s = .next
      (if 240 ≤ x.toNat ∨ 320 ≤ y.toNat ∨ w = 0 ∨ h = 0 then { s with ubMarks := marks }
      else
        let cw := min w.toNat (240 - x.toNat)
        let ch := min h.toNat (320 - y.toNat)
        { s.afterTxns .high (listing s.par s.cfg
            [.c s.par.cmds.caset, .d (encPair x (BitVec.ofNat 16 (x.toNat + cw - 1))),
              .c s.par.cmds.raset, .d (encPair y (BitVec.ofNat 16 (y.toNat + ch - 1))),
              .c s.par.cmds.ramwr, .px (hiByte color) (loByte color) (cw * ch)]) with
          ubMarks := marks })

/-- 43_drawing.md R133: FILL_SCREEN is FILL_RECT of the whole panel; R134: its window, its 76,800 pixels and its
counts. -/
def Obligations.FillScreenSendsTheWholePanel : Prop :=
  ∀ (s : State) (color : Word16), s.Fresh →
    exec (.fillScreen color) s = exec (.fillRect 0 0 240 320 color) s ∧
    exec (.fillScreen color) s = .next
      { s.afterTxns .high (listing s.par s.cfg
          [.c s.par.cmds.caset, .d [0x00, 0x00, 0x00, 0xEF],
            .c s.par.cmds.raset, .d [0x00, 0x00, 0x01, 0x3F],
            .c s.par.cmds.ramwr, .px (hiByte color) (loByte color) 76800]) with
        ubMarks := s.ubMarks ++ (if s.drv = .unconfigured then [.drawBeforeInit] else []) } ∧
    (bytesSent (fillScreenTrace s.par color)).length = 153611 ∧
    (fillScreenTrace s.par color).length = 153629 ∧
    transactions s.par (fillScreenTrace s.par color) = 6

/-- 43_drawing.md R135: DRAW_PIXEL on the panel programs a 1×1 window and writes two bytes in one data
transaction; outside it emits nothing (R136); either way it marks UB before INIT (R125). -/
def Obligations.DrawPixelSendsOnePixel : Prop :=
  ∀ (s : State) (x y color : Word16), s.Fresh →
    let marks := s.ubMarks ++ (if s.drv = .unconfigured then [.drawBeforeInit] else [])
    exec (.drawPixel x y color) s = .next
      (if 240 ≤ x.toNat ∨ 320 ≤ y.toNat then { s with ubMarks := marks }
      else
        { s.afterTxns .high (listing s.par s.cfg
            [.c s.par.cmds.caset, .d (encPair x x), .c s.par.cmds.raset, .d (encPair y y),
              .c s.par.cmds.ramwr, .d [hiByte color, loByte color]]) with
          ubMarks := marks })

/-- 43_drawing.md R138: on the panel DRAW_PIXEL and a 1×1 FILL_RECT are the same. -/
def Obligations.DrawPixelIsAOneByOneFill : Prop :=
  ∀ (p : Params) (c : Cfg) (s : State) (x y color : Word16), x.toNat < 240 → y.toNat < 320 →
    traceOf p c (.drawPixel x y color) = traceOf p c (.fillRect x y 1 1 color) ∧
    (s.hang = none → exec (.drawPixel x y color) s = exec (.fillRect x y 1 1 color) s)

/-- 43_drawing.md R130, R137: transactions, bytes and events of a drawing request that emits. -/
def Obligations.DrawingCounts : Prop :=
  ∀ (p : Params) (x y w h color : Word16), x.toNat < 240 → y.toNat < 320 → w ≠ 0 → h ≠ 0 →
    let n := min w.toNat (240 - x.toNat) * min h.toNat (320 - y.toNat)
    transactions p (fillRectTrace p x y w h color) = 6 ∧
    (bytesSent (fillRectTrace p x y w h color)).length = 11 + 2 * n ∧
    (fillRectTrace p x y w h color).length = 29 + 2 * n ∧
    transactions p (drawPixelTrace p x y color) = 6 ∧
    (bytesSent (drawPixelTrace p x y color)).length = 13 ∧
    (drawPixelTrace p x y color).length = 31 ∧
    ∀ v, lastLevel .dc (drawPixelTrace p x y color) v = .known .high ∧
      lastLevel .cs (drawPixelTrace p x y color) v = .known p.csActive.flip

/-- 43_drawing.md R139: what a drawing request emits depends on its operands and the parameters, never on
earlier requests, and begins with a full SET_WINDOW where it is anything. -/
def Obligations.DrawingDependsOnItsOperandsAlone : Prop :=
  ∀ (s s' : State) (i : Instr), i.isDrawing = true → s.Fresh → s'.Fresh → s.par = s'.par →
    ∃ t t' es, exec i s = .next t ∧ exec i s' = .next t' ∧
      t.trace = s.trace ++ es ∧ t'.trace = s'.trace ++ es ∧
      (es = [] ∨ ∃ x0 y0 x1 y1, setWindowTrace s.par x0 y0 x1 y1 <+: es)

/-! ## Micro-ops -/

/-- 41_framer.md R111, R112: WRITE_COMMAND and WRITE_DATA send one byte in one transaction, in command and in
data mode. -/
def Obligations.OneByteTransactions : Prop :=
  ∀ (s : State) (b : Byte), s.seq = .idle → s.hang = none →
    exec (.writeCommand b) s = .next (s.afterTxns .low
      [.set .dc .low, .set .cs s.par.csActive, .tx b, .set .cs s.par.csActive.flip]) ∧
    exec (.writeData b) s = .next (s.afterTxns .high
      [.set .dc .high, .set .cs s.par.csActive, .tx b, .set .cs s.par.csActive.flip])

/-- 41_framer.md R113: WRITE_DATA_BUF sends a run of bytes in one transaction, one byte like WRITE_DATA, and to the
controller one run is like its parts; R114: an empty list is refused. -/
def Obligations.DataBufferInOneTransaction : Prop :=
  ∀ (s : State) (b : Byte) (bytes : List Byte),
    (s.seq = .idle → s.hang = none →
      exec (.writeDataBuf (b :: bytes)) s = .next (s.afterTxns .high
        ([.set .dc .high, .set .cs s.par.csActive] ++ (b :: bytes).map .tx ++
          [.set .cs s.par.csActive.flip]))) ∧
    traceOf s.par s.cfg (.writeDataBuf [b]) = traceOf s.par s.cfg (.writeData b) ∧
    (∀ (o : Ctl) (l1 l2 : List Byte),
      o.run s.par (txn s.par .high (l1 ++ l2)) =
        o.run s.par (txn s.par .high l1 ++ txn s.par .high l2)) ∧
    exec (.writeDataBuf []) s = .refused .emptyBuffer

/-- 42_window.md R119: SET_WINDOW programs columns, then rows, then arms the memory write, for every operand;
R120: 5 transactions, 11 bytes, 26 events. -/
def Obligations.SetWindowProgramsColumnsThenRows : Prop :=
  ∀ (s : State) (x0 y0 x1 y1 : Word16),
    (s.seq = .idle → s.hang = none →
      exec (.setWindow x0 y0 x1 y1) s = .next (s.afterTxns .low (listing s.par s.cfg
        [.c s.par.cmds.caset, .d [hiByte x0, loByte x0, hiByte x1, loByte x1],
          .c s.par.cmds.raset, .d [hiByte y0, loByte y0, hiByte y1, loByte y1],
          .c s.par.cmds.ramwr]))) ∧
    transactions s.par (setWindowTrace s.par x0 y0 x1 y1) = 5 ∧
    (bytesSent (setWindowTrace s.par x0 y0 x1 y1)).length = 11 ∧
    (setWindowTrace s.par x0 y0 x1 y1).length = 26

/-- 43_drawing.md R129: PIXEL_STREAM sends n copies of one pixel in one transaction. R129 gives `n` up to 76,800;
that a larger `n` runs too is the model's choice (Log 25). -/
def Obligations.PixelStreamIsOneTransaction : Prop :=
  ∀ (s : State) (hi lo : Byte) (n : Nat), n ≠ 0 → s.seq = .idle → s.hang = none →
    exec (.pixelStream hi lo n) s = .next (s.afterTxns .high
      ([.set .dc .high, .set .cs s.par.csActive] ++
        (List.replicate n [Event.tx hi, Event.tx lo]).flatten ++ [.set .cs s.par.csActive.flip]))

/-- 41_framer.md R115: the framing properties hold of every trace the block emits. -/
def Obligations.EveryTraceIsFramed : Prop :=
  ∀ (p : Params) (c : Cfg) (i : Instr), framed p (traceOf p c i) = true

/-- 30_encoding.md R80: every byte a request sends as a command is one of the nine of its configuration. -/
def Obligations.RequestsSendCommandsOfTheTableAlone : Prop :=
  ∀ (p : Params) (c : Cfg) (i : Instr) (m : Level), i.isRequest = true →
    ∀ b ∈ commandBytes m (traceOf p c i),
      b ∈ [p.cmds.swreset, p.cmds.slpout, p.cmds.colmod, p.cmds.madctl,
        (if c.invert = true then p.cmds.invon else p.cmds.invoff), p.cmds.dispon, p.cmds.caset,
        p.cmds.raset, p.cmds.ramwr]

/-! ## Controller commands

That a row of format CMD is run by the block sending it in its own frames is the model's reading (Log 8).
That the observer acts by its rules on the events of a block constructed anew and not yet configured is Log 16. -/

/-- 44_controller.md R147: SWRESET is sent in one transaction; a controller that accepts a command returns to its
reset-default state, with the settling time of R161. Premises R202's eight. That state is the one after a hardware
reset, which the spec marks as general knowledge (Log 18). That the row is run by itself and sent in exactly these
transactions is the model's reading (Log 8). -/
def Obligations.SwresetRestoresTheDefaults : Prop :=
  ∀ s : State, s.seq = .idle → s.hang = none →
    let t := s.afterTxns .low (listing s.par s.cfg [.c s.par.cmds.swreset])
    exec .swreset s = .next t ∧
    (s.Premises → s.ctl.Accepts →
      t.ctl = { s.ctl with
        cs := .known s.par.csActive.flip, dc := .known .low, resetDone := .known true, cmd := .none,
        params := .known [], half := .known none, sleep := .known .asleep, disp := .known .off,
        inv := .known .off, colmod := .unknown, madctl := .unknown, xs := .unknown, xe := .unknown,
        ys := .unknown, ye := .unknown, cx := .unknown, cy := .unknown,
        quiet := .known s.par.obsSwReset })

/-- 44_controller.md R148: SLPOUT wakes the controller; R153: DISPON turns the display on; each with its settling
time, each sent in one transaction. Premises R202's eight. That SLPOUT does the same when already awake the spec marks
as general knowledge (Log 18). That the row is run by itself and sent in exactly these transactions is the model's
reading (Log 8). -/
def Obligations.SlpoutAndDisponTakeEffect : Prop :=
  ∀ s : State, s.seq = .idle → s.hang = none →
    let t := s.afterTxns .low (listing s.par s.cfg [.c s.par.cmds.slpout])
    let u := s.afterTxns .low (listing s.par s.cfg [.c s.par.cmds.dispon])
    exec .slpout s = .next t ∧ exec .dispon s = .next u ∧
    (s.Premises → s.ctl.Accepts →
      t.ctl = { s.ctl with
        cs := .known s.par.csActive.flip, dc := .known .low, cmd := .cmd .slpout, params := .known [],
        sleep := .known .awake, quiet := .known s.par.obsSlpOut } ∧
      u.ctl = { s.ctl with
        cs := .known s.par.csActive.flip, dc := .known .low, cmd := .cmd .dispon, params := .known [],
        disp := .known .on, quiet := .known s.par.obsDispOn })

/-- 44_controller.md R151, R152: INVOFF and INVON set the inversion state, each sent in one transaction. Premises
R202's eight. That the frame memory stays the spec marks as general knowledge (Log 18). That the row is run by itself
and sent in exactly these transactions is the model's reading (Log 8). -/
def Obligations.InversionCommandsTakeEffect : Prop :=
  ∀ s : State, s.seq = .idle → s.hang = none →
    let t := s.afterTxns .low (listing s.par s.cfg [.c s.par.cmds.invoff])
    let u := s.afterTxns .low (listing s.par s.cfg [.c s.par.cmds.invon])
    exec .invoff s = .next t ∧ exec .invon s = .next u ∧
    (s.Premises → s.ctl.Accepts →
      t.ctl = { s.ctl with
        cs := .known s.par.csActive.flip, dc := .known .low, cmd := .cmd .invoff, params := .known [],
        inv := .known .off } ∧
      u.ctl = { s.ctl with
        cs := .known s.par.csActive.flip, dc := .known .low, cmd := .cmd .invon, params := .known [],
        inv := .known .on })

/-- 44_controller.md R149, R150: COLMOD and MADCTL take their one parameter. Premises R202's eight. That the row is
run by itself and sent in exactly these transactions is the model's reading (Log 8). -/
def Obligations.ColmodAndMadctlTakeTheirParameter : Prop :=
  ∀ (s : State) (b : Byte), s.seq = .idle → s.hang = none →
    let t := s.afterTxns .high (listing s.par s.cfg [.c s.par.cmds.colmod, .d [b]])
    let u := s.afterTxns .high (listing s.par s.cfg [.c s.par.cmds.madctl, .d [b]])
    exec (.colmod b) s = .next t ∧ exec (.madctl b) s = .next u ∧
    (s.Premises → s.ctl.Accepts →
      t.ctl = { s.ctl with
        cs := .known s.par.csActive.flip, dc := .known .high, cmd := .cmd .colmod,
        params := .known [b], colmod := .known b } ∧
      u.ctl = { s.ctl with
        cs := .known s.par.csActive.flip, dc := .known .high, cmd := .cmd .madctl,
        params := .known [b], madctl := .known b })

/-- 44_controller.md R154: CASET sets the column range, or the controller is `bad` (R160). Premises R202's eight. That
the row is run by itself and sent in exactly these transactions is the model's reading (Log 8). -/
def Obligations.CasetSetsTheColumnRange : Prop :=
  ∀ (s : State) (x0 x1 : Word16), s.seq = .idle → s.hang = none →
    let t := s.afterTxns .high (listing s.par s.cfg [.c s.par.cmds.caset, .d (encPair x0 x1)])
    exec (.caset x0 x1) s = .next t ∧
    (s.Premises → s.ctl.Accepts →
      t.ctl = if x0.toNat ≤ x1.toNat ∧ x1.toNat < 240 then
          { s.ctl with
            cs := .known s.par.csActive.flip, dc := .known .high, cmd := .cmd .caset,
            params := .known (encPair x0 x1), xs := .known x0, xe := .known x1 }
        else Ctl.broken)

/-- 44_controller.md R155: RASET sets the row range, or the controller is `bad` (R160). Premises R202's eight. That
the row is run by itself and sent in exactly these transactions is the model's reading (Log 8). -/
def Obligations.RasetSetsTheRowRange : Prop :=
  ∀ (s : State) (y0 y1 : Word16), s.seq = .idle → s.hang = none →
    let t := s.afterTxns .high (listing s.par s.cfg [.c s.par.cmds.raset, .d (encPair y0 y1)])
    exec (.raset y0 y1) s = .next t ∧
    (s.Premises → s.ctl.Accepts →
      t.ctl = if y0.toNat ≤ y1.toNat ∧ y1.toNat < 320 then
          { s.ctl with
            cs := .known s.par.csActive.flip, dc := .known .high, cmd := .cmd .raset,
            params := .known (encPair y0 y1), ys := .known y0, ye := .known y1 }
        else Ctl.broken)

/-- 44_controller.md R156: RAMWR's command byte sets the cursor to the window's start, which the spec marks as
general knowledge (Log 18). Premises R202's eight. That its pixels go in one data transaction, and the command byte
alone where there are none, is the model's choice (Log 8). -/
def Obligations.RamwrArmsTheCursorAndSendsItsPixels : Prop :=
  ∀ (s : State) (px : List Word16), s.seq = .idle → s.hang = none →
    exec (.ramwr px) s = .next
      (s.afterTxns (if px = [] then .low else .high) (listing s.par s.cfg
        (.c s.par.cmds.ramwr :: (if px = [] then [] else [.d (px.flatMap enc16)])))) ∧
    (s.Premises → s.ctl.Accepts →
      s.ctl.run s.par (txn s.par .low [s.par.cmds.ramwr]) =
        { s.ctl with
          cs := .known s.par.csActive.flip, dc := .known .low, cmd := .cmd .ramwr,
          params := .known [], cx := s.ctl.xs.map BitVec.toNat, cy := s.ctl.ys.map BitVec.toNat,
          half := .known none })

/-! ## The controller -/

/-- 44_controller.md R141: a command byte outside the ten, and a data byte that follows no command, leave the
controller `bad`: a rule of the observer, in every state of it; premise `P_PORTS_OK`. That a data byte under an
UNKNOWN command, of which R143 says nothing, does so too is the model's reading (Log 26). -/
def Obligations.BytesWithoutMeaningBreak : Prop :=
  ∀ (s : State) (b : Byte), s.seq = .idle → s.hang = none →
    ((∀ c, s.par.cmds.byteOf c ≠ b) → ∃ t, exec (.writeCommand b) s = .next t ∧ t.ctl.bad = true) ∧
    (s.ctl.cmd = .none ∨ s.ctl.cmd = .unknown →
      ∃ t, exec (.writeData b) s = .next t ∧ t.ctl.bad = true)

/-- 44_controller.md R141, R144, R160: a command instruction that finds the controller not accepting a command byte
leaves it `bad`; `Ctl.Accepts` says when it does. A rule of the observer, in every state of it; premise `P_PORTS_OK`.
That a controller whose command is UNKNOWN after a reset accepts none is the model's reading (Log 26). That a command
row is run by itself, in the block's own frames, is the model's reading (Log 8). -/
def Obligations.CommandsNotAcceptedBreak : Prop :=
  ∀ (s : State) (i : Instr), s.seq = .idle → s.hang = none →
    (∃ code data, encode s.par.cmds i = .command code data) → ¬s.ctl.Accepts →
    ∃ t, exec i s = .next t ∧ t.ctl.bad = true

/-- 44_controller.md R160: a new command before a command has all its parameters, a data byte after a command without
parameters or after its last one, and a range out of order or off the panel leave the controller `bad`; R159: so does
an odd pixel byte at the next command byte. Rules of the observer, in every state of it; premise `P_PORTS_OK`. That a
command row is run by itself, in the block's own frames, is the model's reading (Log 8). -/
def Obligations.MalformedParametersBreak : Prop :=
  ∀ (s : State) (c : Cmd) (b : Byte), s.seq = .idle → s.hang = none →
    (∀ ps, c ≠ .ramwr → s.ctl.cmd = .cmd c → s.ctl.params = .known ps → ps.length < nparams c →
      ∃ t, exec (.writeCommand b) s = .next t ∧ t.ctl.bad = true) ∧
    (s.ctl.cmd = .cmd .ramwr → s.ctl.half ≠ .known none →
      ∃ t, exec (.writeCommand b) s = .next t ∧ t.ctl.bad = true) ∧
    (∀ ps, c ≠ .ramwr → s.ctl.cmd = .cmd c → s.ctl.params = .known ps → nparams c ≤ ps.length →
      ∃ t, exec (.writeData b) s = .next t ∧ t.ctl.bad = true) ∧
    (s.par.cmds.Distinct → ∀ s' e' : Word16,
      (e'.toNat < s'.toNat ∨ 240 ≤ e'.toNat →
        ∃ t, exec (.caset s' e') s = .next t ∧ t.ctl.bad = true) ∧
      (e'.toNat < s'.toNat ∨ 320 ≤ e'.toNat →
        ∃ t, exec (.raset s' e') s = .next t ∧ t.ctl.bad = true))

/-- 44_controller.md R144: a byte before a hardware reset has completed, while the reset line is not high, and
while a settling time runs leaves the controller `bad`: a rule of the observer, in every state of it; premise
`P_PORTS_OK`. -/
def Obligations.ByteTooEarlyBreaks : Prop :=
  ∀ (s : State) (b : Byte), s.seq = .idle → s.hang = none →
    (s.ctl.resetDone = .known false ∨ s.ctl.rst ≠ .known .high ∨
      ∃ ms, s.ctl.quiet = .known ms ∧ 0 < ms) →
    (∃ t, exec (.writeCommand b) s = .next t ∧ t.ctl.bad = true) ∧
    (∃ t, exec (.writeData b) s = .next t ∧ t.ctl.bad = true)

/-- 44_controller.md R144: `o.bad` is sticky, and R142: no other field changes any more. -/
def Obligations.BadControllerStaysBad : Prop :=
  ∀ s t : State, s.ctl.bad = true → step s = .next t → t.ctl = s.ctl

/-- 44_controller.md R143: a byte with chip-select not active is ignored by the observer, which the spec marks as
general knowledge (Log 18). -/
def Obligations.UnselectedByteIsIgnored : Prop :=
  ∀ (p : Params) (b : Byte) (o : Ctl), o.cs ≠ .known p.csActive → o.event p (.tx b) = o

/-- 44_controller.md R145: what the reset line and time do to the observer, and so a reset pulse: at least the
threshold long it gives the reset-default state and keeps the frame memory, shorter it leaves it `bad`. The
reset-default values the spec marks as general knowledge (Log 18). -/
def Obligations.HardwareResetAndTime : Prop :=
  ∀ (p : Params) (o : Ctl) (t : Nat), o.bad = false →
    o.event p (.set .rst .low) =
      { o with rst := .known .low, lowMs := .known 0, resetDone := .known false } ∧
    (∀ q, o.quiet = .known q → (o.event p (.sleep t)).quiet = .known (q - t)) ∧
    o.event p (.sleep t) =
      { o with
        quiet := o.quiet.map (· - t)
        lowMs := if o.rst = .known .low then o.lowMs.map (· + t) else o.lowMs } ∧
    (o.rst ≠ .known .low → o.event p (.set .rst .high) = { o with rst := .known .high }) ∧
    o.run p [.set .rst .low, .sleep t, .set .rst .high] =
      if p.obsRstLo ≤ t then
        { o with
          rst := .known .high, resetDone := .known true, lowMs := .known t, cmd := .none,
          params := .known [], half := .known none, sleep := .known .asleep, disp := .known .off,
          inv := .known .off, colmod := .unknown, madctl := .unknown, xs := .unknown, xe := .unknown,
          ys := .unknown, ye := .unknown, cx := .unknown, cy := .unknown,
          quiet := .known p.obsRstRec }
      else Ctl.broken

/-- 44_controller.md R157: after RAMWR data bytes pair into pixels, high byte first; a pixel is written at the
cursor, which steps along the window, or leaves the controller `bad` where a premise of it fails; R158: and
past the window's end. Premises R202's eight; that the cursor is by the window and the window on the panel is
kept by every step (`State.Inv`). -/
def Obligations.PixelBytesPairAndWalkTheWindow : Prop :=
  ∀ (s : State) (b : Byte), s.Premises → s.ctl.WindowKept → s.ctl.CursorKept →
    s.ctl.resetDone = .known true → s.ctl.rst = .known .high → s.ctl.quiet = .known 0 →
    s.ctl.cmd = .cmd .ramwr →
    let t := s.afterTxns .high (listing s.par s.cfg [.d [b]])
    exec (.writeData b) s = .next t ∧
    (s.ctl.half = .known none →
      t.ctl = { s.ctl with
        cs := .known s.par.csActive.flip, dc := .known .high, half := .known (some b) }) ∧
    ∀ h, s.ctl.half = .known (some h) →
      (s.ctl.colmod ≠ .known s.par.colmod16bpp ∨ s.ctl.madctl ≠ .known s.par.madctlNormal ∨
        s.ctl.sleep ≠ .known .awake ∨ s.ctl.xs = .unknown ∨ s.ctl.xe = .unknown ∨
        s.ctl.ys = .unknown ∨ s.ctl.ye = .unknown ∨ s.ctl.cx = .unknown ∨ s.ctl.cy = .unknown →
        t.ctl.bad = true) ∧
      ∀ (xs xe ys ye : Word16) (cx cy : Nat), s.ctl.xs = .known xs → s.ctl.xe = .known xe →
        s.ctl.ys = .known ys → s.ctl.ye = .known ye → s.ctl.cx = .known cx → s.ctl.cy = .known cy →
        (ye.toNat < cy → t.ctl.bad = true) ∧
        (s.ctl.colmod = .known s.par.colmod16bpp → s.ctl.madctl = .known s.par.madctlNormal →
          s.ctl.sleep = .known .awake → cy ≤ ye.toNat →
          t.ctl = { s.ctl with
            cs := .known s.par.csActive.flip, dc := .known .high, half := .known none,
            fb := s.ctl.fb.fbWrite cx cy (join16 h b),
            cx := .known (if xe.toNat < cx + 1 then xs.toNat else cx + 1),
            cy := .known (if xe.toNat < cx + 1 then cy + 1 else cy) })

/-- 44_controller.md R162: after INIT on a constructed block the controller is initialized and at rest, from any
observer state that is not `bad`; the frame memory is as it was, which of SWRESET and the inversion commands the
spec marks as general knowledge (R147, R152; Log 18). Premises R202's eight. The premise on the reset line is a
clause of `State.Inv` at IDLE (Log 32). -/
def Obligations.InitInitializesTheController : Prop :=
  ∀ (s : State) (r : BitRate), s.Premises → s.drv = .unconfigured → s.ctl.rst ≠ .known .low → r ≠ 0 →
    ∃ t, exec (.init r) s = .next t ∧ t.ub = false ∧
      t.ctl.Initialized t.par t.cfg.invert ∧ t.ctl.AtRest ∧ t.ctl.fb = s.ctl.fb

/-- 44_controller.md R164: on an initialized controller at rest every drawing request leaves it initialized and
at rest, each cell of the clipped rectangle holding the colour and every other cell as it was. Premises R202's
eight. That the stream begins at the window's start is Log 18. -/
def Obligations.DrawingWritesItsRectangleAlone : Prop :=
  ∀ (s : State) (x y w h color : Word16), s.Premises → s.drv = .ready →
    s.ctl.Initialized s.par s.cfg.invert → s.ctl.AtRest →
    (∃ t, exec (.fillRect x y w h color) s = .next t ∧ t.ub = false ∧
      t.ctl.Initialized t.par t.cfg.invert ∧ t.ctl.AtRest ∧
      ∀ c r, c < 240 → r < 320 → t.ctl.fb.cell c r =
        if x.toNat ≤ c ∧ c < x.toNat + w.toNat ∧ y.toNat ≤ r ∧ r < y.toNat + h.toNat then
          .known color else s.ctl.fb.cell c r) ∧
    (∃ t, exec (.fillScreen color) s = .next t ∧ t.ub = false ∧
      t.ctl.Initialized t.par t.cfg.invert ∧ t.ctl.AtRest ∧
      ∀ c r, c < 240 → r < 320 → t.ctl.fb.cell c r = .known color) ∧
    (∃ t, exec (.drawPixel x y color) s = .next t ∧ t.ub = false ∧
      t.ctl.Initialized t.par t.cfg.invert ∧ t.ctl.AtRest ∧
      ∀ c r, c < 240 → r < 320 → t.ctl.fb.cell c r =
        if c = x.toNat ∧ r = y.toNat then .known color else s.ctl.fb.cell c r)

/-- 44_controller.md R165: after SET_WINDOW on an initialized controller at rest, any stream of exactly the
window's pixels writes every cell of it once, its pixel to each row by row (43_drawing.md R131), and no other
cell, and leaves the cursor below it; one pixel more leaves the controller `bad` (R158). A PIXEL_STREAM is such a
stream of equal pixels. Premises R202's eight. That RAMWR begins at the window's start is Log 18. -/
def Obligations.WindowIsCoveredExactly : Prop :=
  ∀ (s : State) (x0 y0 x1 y1 more : Word16) (px : List Word16), s.Premises →
    s.ctl.Initialized s.par s.cfg.invert → s.ctl.AtRest → WindowOk x0 y0 x1 y1 →
    px.length = (x1.toNat - x0.toNat + 1) * (y1.toNat - y0.toNat + 1) →
    ∃ t u v, exec (.setWindow x0 y0 x1 y1) s = .next t ∧
      exec (.writeDataBuf (px.flatMap enc16)) t = .next u ∧
      exec (.writeDataBuf (enc16 more)) u = .next v ∧
      (∀ color, px = List.replicate px.length color →
        exec (.pixelStream (hiByte color) (loByte color) px.length) t = .next u) ∧
      u.ctl.bad = false ∧ u.ctl.cy = .known (y1.toNat + 1) ∧ v.ctl.bad = true ∧
      (∀ i p, px[i]? = some p →
        u.ctl.fb.cell (x0.toNat + i % (x1.toNat - x0.toNat + 1))
          (y0.toNat + i / (x1.toNat - x0.toNat + 1)) = .known p) ∧
      ∀ c r, ¬(x0.toNat ≤ c ∧ c ≤ x1.toNat ∧ y0.toNat ≤ r ∧ r ≤ y1.toNat) →
        u.ctl.fb.cell c r = s.ctl.fb.cell c r

/-- 44_controller.md R163: while the controller is initialized, a screen pixel shows `VISIBLE` of the inversion state
and its cell, whatever that function is, and the cell's colour as 5-6-5 on a panel for which the configured `invert`
is the right choice. Premises R202's eight. The type of what a panel shows, and `RightInversion` for R163's right
choice, are the model's (Log 23). -/
def Obligations.PanelShowsTheColour : Prop :=
  ∀ (visible : OnOff → Word16 → Rgb565) (s : State) (x y : Nat) (v : Word16), s.Premises →
    s.ctl.Initialized s.par s.cfg.invert → x < 240 → y < 320 → s.ctl.fb.cell x y = .known v →
    s.panelShowsOn visible x y = .known (visible (if s.cfg.invert = true then .on else .off) v) ∧
    s.panelShows x y = .known (Config.visible (if s.cfg.invert = true then .on else .off) v) ∧
    (RightInversion visible s.cfg.invert → s.panelShowsOn visible x y = .known (rgb565 v))

/-! ## What is left unchanged in the frame memory

The address of a cell, two bytes each, is the model's choice (Log 12). -/

/-- An instruction that sends no pixel byte leaves every byte of the frame memory as it was, unless the controller has
gone `bad` (44_controller.md R142, R146). Premises R202's eight, `P_NO_UB` of the state after: no second INIT. That
inversion and SWRESET leave the frame memory as it was is Log 18. That a command row is run by itself, in the block's
own frames, is the model's reading (Log 8). The address of a cell is the model's choice (Log 12). -/
def Obligations.FormsWithoutPixelsKeepTheFrameMemory : Prop :=
  ∀ (i : Instr) (s t : State), s.Premises → i.sendsNoPixel = true → exec i s = .next t →
    t.ub = false → t.ctl.bad = false → ∀ a, t.ctl.fb.read a = s.ctl.fb.read a

/-- A data transaction stores to the cells from the controller's cursor on, one for each pair of bytes, and to no
other byte of the frame memory, unless the controller has gone `bad` (44_controller.md R146, R157). Premises R202's
eight, `P_NO_UB` of the state after. The address of a cell is the model's choice (Log 12). -/
def Obligations.DataTransactionsStoreAtTheCursorAlone : Prop :=
  ∀ (s t : State) (i : Instr) (n : Nat), s.Premises →
    ((∃ b, i = .writeData b ∧ n = 1) ∨ (∃ bytes, i = .writeDataBuf bytes ∧ n = bytes.length) ∨
      (∃ hi lo k, i = .pixelStream hi lo k ∧ n = 2 * k)) →
    exec i s = .next t → t.ub = false → t.ctl.bad = false →
    ∀ a, OutsideCells (s.ctl.storedCells n) a → t.ctl.fb.read a = s.ctl.fb.read a

/-- 43_drawing.md R131, 44_controller.md R157: RAMWR on an initialized controller at rest puts pixel `i` in column
`x0 + i mod cw` and row `y0 + i div cw` of its window and leaves every other cell as it was. Premises R202's eight.
That the pixels begin at the window's start is Log 18. That a command row is run by itself, in the block's own frames, is
the model's reading (Log 8). -/
def Obligations.PixelsRunRowByRow : Prop :=
  ∀ (s : State) (x0 y0 x1 y1 : Word16) (px : List Word16), s.Premises →
    s.ctl.Initialized s.par s.cfg.invert → s.ctl.AtRest → s.ctl.xs = .known x0 →
    s.ctl.xe = .known x1 → s.ctl.ys = .known y0 → s.ctl.ye = .known y1 → WindowOk x0 y0 x1 y1 →
    px.length ≤ (x1.toNat - x0.toNat + 1) * (y1.toNat - y0.toNat + 1) →
    ∃ t, exec (.ramwr px) s = .next t ∧ t.ctl.bad = false ∧
      (∀ i p, px[i]? = some p →
        t.ctl.fb.cell (x0.toNat + i % (x1.toNat - x0.toNat + 1))
          (y0.toNat + i / (x1.toNat - x0.toNat + 1)) = .known p) ∧
      ∀ c r,
        (∀ i, i < px.length → ¬(c = x0.toNat + i % (x1.toNat - x0.toNat + 1) ∧
          r = y0.toNat + i / (x1.toNat - x0.toNat + 1))) →
        t.ctl.fb.cell c r = s.ctl.fb.cell c r

/-- RAMWR stores to the cells from its window's start on, one for each pixel, and to no other byte of the frame
memory, unless the controller has gone `bad` (44_controller.md R156, R157). Premises R202's eight, `P_NO_UB` of the
state after. That it begins at the window's start is Log 18. That a command row is run by itself, in the block's own
frames, is the model's reading (Log 8). The address of a cell is the model's choice (Log 12). -/
def Obligations.RamwrStoresFromTheWindowStart : Prop :=
  ∀ (s t : State) (px : List Word16), s.Premises → exec (.ramwr px) s = .next t →
    t.ub = false → t.ctl.bad = false →
    ∀ a, OutsideCells (Ctl.storedCells { s.ctl with
        cmd := .cmd .ramwr, half := .known none, cx := s.ctl.xs.map BitVec.toNat,
        cy := s.ctl.ys.map BitVec.toNat } (2 * px.length)) a →
      t.ctl.fb.read a = s.ctl.fb.read a

/-- A drawing request stores to the cells of its clipped rectangle and to no other byte of the frame memory, unless
the controller has gone `bad` (43_drawing.md R131; 44_controller.md R146). Premises R202's eight, `P_NO_UB` of the
state after: no drawing before INIT. That the stream begins at the window's start, and so which cells it stores to, is
Log 18. The address of a cell is the model's choice (Log 12). -/
def Obligations.DrawingStoresInItsRectangleAlone : Prop :=
  ∀ (s t : State) (i : Instr) (x y w h : Word16), s.Premises →
    ((∃ color, i = .fillRect x y w h color) ∨
      (∃ color, i = .fillScreen color ∧ x = 0 ∧ y = 0 ∧ w = 240 ∧ h = 320) ∨
      (∃ color, i = .drawPixel x y color ∧ w = 1 ∧ h = 1)) →
    exec i s = .next t → t.ub = false → t.ctl.bad = false →
    ∀ a, (∀ q c r, clipRect x y w h = some q → q.covers c r = true →
        a ≠ cellAddr c r ∧ a ≠ cellAddr c r + 1) →
      t.ctl.fb.read a = s.ctl.fb.read a
end

