-- ==== Sys2Proof/Laws/Bits.lean ====
section
/-! SUPPORT. Byte order and request words: what joining and splitting gives. -/

namespace Sys2Proof

@[simp] theorem hiByte_join16 (h l : Byte) : hiByte (join16 h l) = h :=
  BitVec.extractLsb'_append_eq_left (a := h) (b := l)

@[simp] theorem loByte_join16 (h l : Byte) : loByte (join16 h l) = l :=
  BitVec.extractLsb'_append_eq_right (a := h) (b := l)

@[simp] theorem join16_hiByte_loByte (v : Word16) : join16 (hiByte v) (loByte v) = v :=
  (BitVec.extractLsb'_append_extractLsb'_eq_extractLsb' (x := v) (start₂ := 8) (start₁ := 0)
    (len₁ := 8) (len₂ := 8) rfl).trans BitVec.extractLsb'_eq_self

@[simp] theorem Level.flip_flip (v : Level) : v.flip.flip = v := by cases v <;> rfl

@[simp] theorem Level.flip_ne_self (v : Level) : v.flip ≠ v := by cases v <;> decide

@[simp] theorem Level.self_ne_flip (v : Level) : v ≠ v.flip := by cases v <;> decide

@[simp] theorem length_enc16 (v : Word16) : (enc16 v).length = 2 := rfl

@[simp] theorem length_encPair (s e : Word16) : (encPair s e).length = 4 := rfl

@[simp] theorem reqOp_requestWord (op rsv : Byte) (a b c d e : Word16) :
    reqOp (requestWord op rsv a b c d e) = op :=
  BitVec.extractLsb'_append_eq_right (a := e ++ d ++ c ++ b ++ a ++ rsv) (b := op)

@[simp] theorem reqRsv_requestWord (op rsv : Byte) (a b c d e : Word16) :
    reqRsv (requestWord op rsv a b c d e) = rsv :=
  (BitVec.extractLsb'_append_eq_of_le (xhi := e ++ d ++ c ++ b ++ a ++ rsv) (xlo := op) (start := 8) (by decide)).trans <|
  BitVec.extractLsb'_append_eq_right (a := e ++ d ++ c ++ b ++ a) (b := rsv)

@[simp] theorem reqA_requestWord (op rsv : Byte) (a b c d e : Word16) :
    reqA (requestWord op rsv a b c d e) = a :=
  (BitVec.extractLsb'_append_eq_of_le (xhi := e ++ d ++ c ++ b ++ a ++ rsv) (xlo := op) (start := 16) (by decide)).trans <|
  (BitVec.extractLsb'_append_eq_of_le (xhi := e ++ d ++ c ++ b ++ a) (xlo := rsv) (start := 8) (by decide)).trans <|
  BitVec.extractLsb'_append_eq_right (a := e ++ d ++ c ++ b) (b := a)

@[simp] theorem reqB_requestWord (op rsv : Byte) (a b c d e : Word16) :
    reqB (requestWord op rsv a b c d e) = b :=
  (BitVec.extractLsb'_append_eq_of_le (xhi := e ++ d ++ c ++ b ++ a ++ rsv) (xlo := op) (start := 32) (by decide)).trans <|
  (BitVec.extractLsb'_append_eq_of_le (xhi := e ++ d ++ c ++ b ++ a) (xlo := rsv) (start := 24) (by decide)).trans <|
  (BitVec.extractLsb'_append_eq_of_le (xhi := e ++ d ++ c ++ b) (xlo := a) (start := 16) (by decide)).trans <|
  BitVec.extractLsb'_append_eq_right (a := e ++ d ++ c) (b := b)

@[simp] theorem reqC_requestWord (op rsv : Byte) (a b c d e : Word16) :
    reqC (requestWord op rsv a b c d e) = c :=
  (BitVec.extractLsb'_append_eq_of_le (xhi := e ++ d ++ c ++ b ++ a ++ rsv) (xlo := op) (start := 48) (by decide)).trans <|
  (BitVec.extractLsb'_append_eq_of_le (xhi := e ++ d ++ c ++ b ++ a) (xlo := rsv) (start := 40) (by decide)).trans <|
  (BitVec.extractLsb'_append_eq_of_le (xhi := e ++ d ++ c ++ b) (xlo := a) (start := 32) (by decide)).trans <|
  (BitVec.extractLsb'_append_eq_of_le (xhi := e ++ d ++ c) (xlo := b) (start := 16) (by decide)).trans <|
  BitVec.extractLsb'_append_eq_right (a := e ++ d) (b := c)

@[simp] theorem reqD_requestWord (op rsv : Byte) (a b c d e : Word16) :
    reqD (requestWord op rsv a b c d e) = d :=
  (BitVec.extractLsb'_append_eq_of_le (xhi := e ++ d ++ c ++ b ++ a ++ rsv) (xlo := op) (start := 64) (by decide)).trans <|
  (BitVec.extractLsb'_append_eq_of_le (xhi := e ++ d ++ c ++ b ++ a) (xlo := rsv) (start := 56) (by decide)).trans <|
  (BitVec.extractLsb'_append_eq_of_le (xhi := e ++ d ++ c ++ b) (xlo := a) (start := 48) (by decide)).trans <|
  (BitVec.extractLsb'_append_eq_of_le (xhi := e ++ d ++ c) (xlo := b) (start := 32) (by decide)).trans <|
  (BitVec.extractLsb'_append_eq_of_le (xhi := e ++ d) (xlo := c) (start := 16) (by decide)).trans <|
  BitVec.extractLsb'_append_eq_right (a := e) (b := d)

@[simp] theorem reqE_requestWord (op rsv : Byte) (a b c d e : Word16) :
    reqE (requestWord op rsv a b c d e) = e :=
  (BitVec.extractLsb'_append_eq_of_le (xhi := e ++ d ++ c ++ b ++ a ++ rsv) (xlo := op) (start := 80) (by decide)).trans <|
  (BitVec.extractLsb'_append_eq_of_le (xhi := e ++ d ++ c ++ b ++ a) (xlo := rsv) (start := 72) (by decide)).trans <|
  (BitVec.extractLsb'_append_eq_of_le (xhi := e ++ d ++ c ++ b) (xlo := a) (start := 64) (by decide)).trans <|
  (BitVec.extractLsb'_append_eq_of_le (xhi := e ++ d ++ c) (xlo := b) (start := 48) (by decide)).trans <|
  (BitVec.extractLsb'_append_eq_of_le (xhi := e ++ d) (xlo := c) (start := 32) (by decide)).trans <|
  BitVec.extractLsb'_append_eq_left (a := e) (b := d)

/-- A request word is the word of its fields (30_encoding.md R65). -/
theorem requestWord_fields (q : RequestWord) :
    requestWord (reqOp q) (reqRsv q) (reqA q) (reqB q) (reqC q) (reqD q) (reqE q) = q := by
  have h1 : reqE q ++ reqD q = q.extractLsb' 64 32 :=
    BitVec.extractLsb'_append_extractLsb'_eq_extractLsb' (len₁ := 16) (len₂ := 16) rfl
  have h2 : q.extractLsb' 64 32 ++ reqC q = q.extractLsb' 48 48 :=
    BitVec.extractLsb'_append_extractLsb'_eq_extractLsb' (len₁ := 16) (len₂ := 32) rfl
  have h3 : q.extractLsb' 48 48 ++ reqB q = q.extractLsb' 32 64 :=
    BitVec.extractLsb'_append_extractLsb'_eq_extractLsb' (len₁ := 16) (len₂ := 48) rfl
  have h4 : q.extractLsb' 32 64 ++ reqA q = q.extractLsb' 16 80 :=
    BitVec.extractLsb'_append_extractLsb'_eq_extractLsb' (len₁ := 16) (len₂ := 64) rfl
  have h5 : q.extractLsb' 16 80 ++ reqRsv q = q.extractLsb' 8 88 :=
    BitVec.extractLsb'_append_extractLsb'_eq_extractLsb' (len₁ := 8) (len₂ := 80) rfl
  have h6 : q.extractLsb' 8 88 ++ reqOp q = q.extractLsb' 0 96 :=
    BitVec.extractLsb'_append_extractLsb'_eq_extractLsb' (len₁ := 8) (len₂ := 88) rfl
  unfold requestWord
  rw [h1, h2, h3, h4, h5]
  exact h6.trans BitVec.extractLsb'_eq_self

/-- A bit rate is the word of its halves (30_encoding.md R69). -/
@[simp] theorem bitRate_halves (r : BitRate) : r.extractLsb' 16 16 ++ r.extractLsb' 0 16 = r :=
  (BitVec.extractLsb'_append_extractLsb'_eq_extractLsb' (x := r) (start₂ := 16) (start₁ := 0)
    (len₁ := 16) (len₂ := 16) rfl).trans BitVec.extractLsb'_eq_self

/-- A byte that names exactly one command names it (44_controller.md R141). -/
theorem CmdTable.cmdOf_eq_some {t : CmdTable} {b : Byte} {c : Cmd}
    (h : ∀ d, t.byteOf d = b ↔ d = c) : t.cmdOf b = some c := by
  have hf : (allCmds.filter fun d => t.byteOf d == b) = [c] := by
    have : (fun d => t.byteOf d == b) = (fun d => d == c) := by
      funext d
      rw [Bool.eq_iff_iff, beq_iff_eq, beq_iff_eq]
      exact h d
    rw [this]
    cases c <;> rfl
  simp [CmdTable.cmdOf, hf]

/-- A byte outside the table names no command. -/
theorem CmdTable.cmdOf_eq_none {t : CmdTable} {b : Byte} (h : ∀ c, t.byteOf c ≠ b) :
    t.cmdOf b = none := by
  have hf : (allCmds.filter fun d => t.byteOf d == b) = [] := by
    rw [List.filter_eq_nil_iff]
    intro d _
    simpa using h d
  simp [CmdTable.cmdOf, hf]

/-- With distinct command bytes, a command's byte names it (44_controller.md R141). -/
theorem CmdTable.cmdOf_byteOf (t : CmdTable)
    (h : [t.swreset, t.slpout, t.colmod, t.madctl, t.invoff, t.invon, t.dispon, t.caset, t.raset,
      t.ramwr].Nodup) (c : Cmd) : t.cmdOf (t.byteOf c) = some c := by
  refine CmdTable.cmdOf_eq_some fun d => ⟨fun e => ?_, fun e => e ▸ rfl⟩
  simp only [List.nodup_cons, List.mem_cons, List.not_mem_nil, or_false, not_or] at h
  cases c <;> cases d <;> simp_all [CmdTable.byteOf, eq_comm]

end Sys2Proof
end

