-- ==== Sys2Proof/Laws/Memory.lean ====
section
/-! SUPPORT. The frame memory: a read after a write, and the canonical form kept. -/

namespace Sys2Proof.Machine

@[simp] theorem Memory.read_nil (a : Nat) : Memory.read [] a = .unknown := rfl

@[simp] theorem Memory.read_cons (b a : Nat) (v : Byte) (m : Memory) :
    Memory.read ((b, v) :: m) a = if b = a then .known v else m.read a := rfl

/-- A read after a write to the same address gives the byte written. -/
@[simp] theorem Memory.read_write_same (m : Memory) (a : Nat) (v : Byte) :
    (m.write a v).read a = .known v := by
  induction m with
  | nil => simp [Memory.write]
  | cons c m ih =>
    obtain ⟨b, w⟩ := c
    unfold Memory.write
    split
    · simp
    · split
      · simp
      · rename_i h1 h2
        simp [show b ≠ a from fun h => h2 h.symm, ih]

/-- A write leaves every other address alone. -/
theorem Memory.read_write_other (m : Memory) {a b : Nat} (v : Byte) (h : a ≠ b) :
    (m.write a v).read b = m.read b := by
  induction m with
  | nil => simp [Memory.write, h]
  | cons c m ih =>
    obtain ⟨d, w⟩ := c
    unfold Memory.write
    split
    · simp [h]
    · split
      · rename_i h2
        simp [← h2, h]
      · simp [ih]

theorem Memory.mem_write {m : Memory} {a : Nat} {v : Byte} {c : Host.Cell}
    (h : c ∈ m.write a v) : c.1 = a ∨ c ∈ m := by
  induction m with
  | nil => simp_all [Memory.write]
  | cons d m ih =>
    obtain ⟨b, w⟩ := d
    unfold Memory.write at h
    split at h
    · simp only [List.mem_cons] at h ⊢
      rcases h with rfl | h
      · exact .inl rfl
      · exact .inr h
    · split at h
      · simp only [List.mem_cons] at h ⊢
        rcases h with rfl | h
        · exact .inl rfl
        · exact .inr (.inr h)
      · simp only [List.mem_cons] at h ⊢
        rcases h with rfl | h
        · exact .inr (.inl rfl)
        · exact (ih h).imp id .inr

/-- A write keeps the addresses rising. -/
theorem Memory.write_rising {m : Memory} (h : (m.map Prod.fst).Pairwise (· < ·)) (a : Nat)
    (v : Byte) : ((m.write a v).map Prod.fst).Pairwise (· < ·) := by
  induction m with
  | nil => simp [Memory.write]
  | cons d m ih =>
    obtain ⟨b, w⟩ := d
    simp only [List.map_cons, List.pairwise_cons] at h
    unfold Memory.write
    split
    · rename_i hab
      simp only [List.map_cons, List.pairwise_cons, List.mem_cons]
      refine ⟨?_, h⟩
      rintro x (rfl | hx)
      · exact hab
      · exact lt_trans hab (h.1 x hx)
    · split
      · rename_i hab
        subst hab
        simpa only [List.map_cons, List.pairwise_cons] using h
      · rename_i h1 h2
        simp only [List.map_cons, List.pairwise_cons]
        refine ⟨?_, ih h.2⟩
        intro x hx
        obtain ⟨c, hc, rfl⟩ := List.mem_map.1 hx
        rcases Memory.mem_write hc with he | hm
        · rw [he]
          omega
        · exact h.1 _ (List.mem_map.2 ⟨c, hm, rfl⟩)

/-- A write inside the frame memory keeps the canonical form. -/
theorem Memory.write_wf {m : Memory} (h : m.wf) {a : Nat} (ha : a < frameBytes) (v : Byte) :
    (m.write a v).wf := by
  refine ⟨Memory.write_rising h.1 a v, fun c hc => ?_⟩
  rcases Memory.mem_write hc with he | hm
  · exact he ▸ ha
  · exact h.2 c hm

/-- A cell of the panel lies in the frame memory. -/
theorem cellAddr_lt {c r : Nat} (hc : c < panelWidth) (hr : r < panelHeight) :
    cellAddr c r + 1 < frameBytes := by
  simp only [cellAddr, frameBytes, panelWidth, panelHeight] at *
  omega

/-- `FbWrite` keeps the canonical form. -/
theorem Memory.fbWrite_wf {m : Memory} (h : m.wf) {c r : Nat} (hc : c < panelWidth)
    (hr : r < panelHeight) (v : Word16) : (m.fbWrite c r v).wf :=
  Memory.write_wf (Memory.write_wf h (by have := cellAddr_lt hc hr; omega) _) (cellAddr_lt hc hr) _

/-- `FbWrite` changes the two bytes of its cell alone. -/
theorem Memory.read_fbWrite_other (m : Memory) {c r a : Nat} (v : Word16) (h0 : a ≠ cellAddr c r)
    (h1 : a ≠ cellAddr c r + 1) : (m.fbWrite c r v).read a = m.read a := by
  unfold Memory.fbWrite
  rw [Memory.read_write_other _ _ h1.symm, Memory.read_write_other _ _ h0.symm]

/-- A cell reads as the value last written to it. -/
theorem Memory.cell_fbWrite_same (m : Memory) {c r : Nat} (hc : c < panelWidth)
    (hr : r < panelHeight) (v : Word16) : (m.fbWrite c r v).cell c r = .known v := by
  unfold Memory.cell Memory.fbWrite
  rw [if_pos ⟨hc, hr⟩, Memory.read_write_same, Memory.read_write_other _ _ (by omega), Memory.read_write_same]
  simp

/-- Two cells of the panel are two addresses. -/
theorem cellAddr_inj {c r c' r' : Nat} (hc : c < panelWidth) (hc' : c' < panelWidth)
    (h : cellAddr c r = cellAddr c' r') : c = c' ∧ r = r' := by
  simp only [cellAddr, panelWidth] at *
  omega

/-- `FbWrite` leaves every other cell alone. -/
theorem Memory.cell_fbWrite_other (m : Memory) {c r c' r' : Nat} (v : Word16)
    (hc : c < panelWidth) (h : ¬(c = c' ∧ r = r')) :
    (m.fbWrite c r v).cell c' r' = m.cell c' r' := by
  unfold Memory.cell
  split
  · rename_i hin
    have hne : cellAddr c r ≠ cellAddr c' r' := fun e => h (cellAddr_inj hc hin.1 e)
    rw [Memory.read_fbWrite_other, Memory.read_fbWrite_other] <;>
      simp only [cellAddr] at * <;> omega
  · rfl

end Sys2Proof.Machine
end

