-- ==== Sys2Proof/Laws/Controller.lean ====
section
/-! SUPPORT. What one event can do to the controller. -/

namespace Sys2Proof.Machine

@[simp] theorem Ctl.broken_bad : Ctl.broken.bad = true := rfl

@[simp] theorem Ctl.broken_fb : Ctl.broken.fb = [] := rfl

@[simp] theorem Ctl.run_nil (p : Params) (o : Ctl) : o.run p [] = o := rfl

@[simp] theorem Ctl.run_cons (p : Params) (e : Event) (es : List Event) (o : Ctl) :
    o.run p (e :: es) = (o.event p e).run p es := rfl

theorem Ctl.run_append (p : Params) (es fs : List Event) (o : Ctl) :
    o.run p (es ++ fs) = (o.run p es).run p fs := by
  simp [Ctl.run, List.foldl_append]

/-- `o.bad` is sticky, and nothing else changes either (44_controller.md R142, R144). -/
theorem Ctl.event_of_bad (p : Params) (e : Event) {o : Ctl} (h : o.bad = true) :
    o.event p e = o := by
  simp [Ctl.event, h]

theorem Ctl.run_of_bad (p : Params) (es : List Event) {o : Ctl} (h : o.bad = true) :
    o.run p es = o := by
  induction es with
  | nil => rfl
  | cons e es ih => rw [Ctl.run_cons, Ctl.event_of_bad p e h, ih]

/-- Every completed pixel breaks the controller or writes the cursor's cell, on the panel. -/
theorem Ctl.pixel_cases (p : Params) (v : Word16) (o : Ctl) :
    o.pixel p v = Ctl.broken ∨
      ∃ cx cy, o.cx = .known cx ∧ o.cy = .known cy ∧ cx < panelWidth ∧ cy < panelHeight ∧
        (o.pixel p v).fb = o.fb.fbWrite cx cy v ∧ (o.pixel p v).bad = o.bad := by
  unfold Ctl.pixel
  split
  · split
    · rename_i hcx hcy
      split
      · exact .inl rfl
      · split
        · exact .inl rfl
        · rename_i hin
          refine .inr ⟨_, _, hcx, hcy, by omega, by omega, ?_⟩
          split <;> exact ⟨rfl, rfl⟩
    · exact .inl rfl
  · exact .inl rfl

/-- Every completed parameter list breaks the controller or leaves the frame memory and `o.bad` alone. -/
theorem Ctl.runParams_cases (c : Cmd) (ps : List Byte) (o : Ctl) :
    o.runParams c ps = Ctl.broken ∨
      ((o.runParams c ps).fb = o.fb ∧ (o.runParams c ps).bad = o.bad) := by
  unfold Ctl.runParams
  split <;> first | exact .inr ⟨rfl, rfl⟩ | (split <;> simp)

theorem Ctl.runCommand_fb (p : Params) (c : Cmd) (o : Ctl) :
    (o.runCommand p c).fb = o.fb ∧ (o.runCommand p c).bad = o.bad := by
  cases c <;> exact ⟨rfl, rfl⟩

/-- What one event does to the frame memory: it breaks the controller, leaves the memory alone, or is the
second byte of a pixel and writes the cursor's cell (44_controller.md R146, R157). -/
theorem Ctl.event_cases (p : Params) (e : Event) {o : Ctl} (h : o.bad = false) :
    o.event p e = Ctl.broken ∨
    ((o.event p e).fb = o.fb ∧ (o.event p e).bad = false) ∨
    ∃ b hi cx cy, e = .tx b ∧ o.cmd = .cmd .ramwr ∧ o.half = .known (some hi) ∧ o.cx = .known cx ∧
      o.cy = .known cy ∧ cx < panelWidth ∧ cy < panelHeight ∧
      (o.event p e).fb = o.fb.fbWrite cx cy (join16 hi b) ∧ (o.event p e).bad = false := by
  cases e with
  | busCfg r a b => exact .inr (.inl ⟨by simp [Ctl.event], by simp [Ctl.event, h]⟩)
  | outCfg l => exact .inr (.inl ⟨by simp [Ctl.event], by simp [Ctl.event, h]⟩)
  | sleep t => exact .inr (.inl ⟨by simp [Ctl.event, h, Ctl.sleepMs], by simp [Ctl.event, h, Ctl.sleepMs]⟩)
  | set l v =>
    cases l with
    | cs => exact .inr (.inl ⟨by simp [Ctl.event, h], by simp [Ctl.event, h]⟩)
    | dc => exact .inr (.inl ⟨by simp [Ctl.event, h], by simp [Ctl.event, h]⟩)
    | rst =>
      simp only [Ctl.event, h, Bool.false_eq_true, ↓reduceIte]
      cases v with
      | low => exact .inr (.inl ⟨rfl, h⟩)
      | high =>
        simp only [Ctl.setRst]
        split
        · split
          · split
            · exact .inr (.inl ⟨rfl, h⟩)
            · exact .inl rfl
          · exact .inl rfl
        · exact .inr (.inl ⟨rfl, h⟩)
  | tx b =>
    simp only [Ctl.event, h, Bool.false_eq_true, ↓reduceIte, Ctl.receive]
    split
    · split
      · split
        · unfold Ctl.commandByte
          split
          · split
            · rename_i c _
              exact .inr (.inl ⟨(Ctl.runCommand_fb p c _).1, by rw [(Ctl.runCommand_fb p c _).2]; exact h⟩)
            · exact .inl rfl
          · exact .inl rfl
        · unfold Ctl.dataByte
          split
          · rename_i hcmd
            unfold Ctl.pixelByte
            split
            · exact .inr (.inl ⟨rfl, h⟩)
            · rename_i hi hhalf
              rcases Ctl.pixel_cases p (join16 hi b) { o with half := .known none } with he | he
              · exact .inl he
              · obtain ⟨cx, cy, hx, hy, hw, hh, hfb, hbad⟩ := he
                exact .inr (.inr ⟨b, hi, cx, cy, rfl, hcmd, hhalf, hx, hy, hw, hh, hfb, by rw [hbad]; exact h⟩)
            · exact .inl rfl
          · rename_i c _ _
            split
            · rename_i ps _
              split
              · simp only
                split
                · rcases Ctl.runParams_cases c (ps ++ [b]) { o with params := .known (ps ++ [b]) } with
                    he | he
                  · exact .inl he
                  · exact .inr (.inl ⟨he.1, he.2.trans h⟩)
                · exact .inr (.inl ⟨rfl, h⟩)
              · exact .inl rfl
            · exact .inl rfl
          · exact .inl rfl
          · exact .inl rfl
        · exact .inl rfl
      · exact .inl rfl
    · exact .inr (.inl ⟨rfl, h⟩)

/-- Every event keeps the frame memory's canonical form. -/
theorem Ctl.event_keeps_wf (p : Params) (e : Event) {o : Ctl} (h : o.fb.wf) :
    (o.event p e).fb.wf := by
  cases hb : o.bad with
  | true => rwa [Ctl.event_of_bad p e hb]
  | false =>
    rcases Ctl.event_cases p e hb with he | he | ⟨b, hi, cx, cy, _, _, _, _, _, hx, hy, hfb, _⟩
    · rw [he]
      simp [Memory.wf]
    · rwa [he.1]
    · rw [hfb]
      exact Memory.fbWrite_wf h hx hy _

/-- A trace keeps the frame memory's canonical form. -/
theorem Ctl.run_keeps_wf (p : Params) (es : List Event) {o : Ctl} (h : o.fb.wf) :
    (o.run p es).fb.wf := by
  induction es generalizing o with
  | nil => exact h
  | cons e es ih => exact ih (Ctl.event_keeps_wf p e h)

end Sys2Proof.Machine
end

