-- ==== Sys2Proof/Laws/State.lean ====
section
/-! SUPPORT. What each named update leaves in each field of the state. -/

namespace Sys2Proof.Machine

@[simp] theorem State.markUb_par (r : UbReason) (s : State) : (s.markUb r).par = s.par := rfl
@[simp] theorem State.markUb_constructed (r : UbReason) (s : State) : (s.markUb r).constructed = s.constructed := rfl
@[simp] theorem State.markUb_cfg (r : UbReason) (s : State) : (s.markUb r).cfg = s.cfg := rfl
@[simp] theorem State.markUb_drv (r : UbReason) (s : State) : (s.markUb r).drv = s.drv := rfl
@[simp] theorem State.markUb_seq (r : UbReason) (s : State) : (s.markUb r).seq = s.seq := rfl
@[simp] theorem State.markUb_ubMarks (r : UbReason) (s : State) : (s.markUb r).ubMarks = s.ubMarks ++ [r] := rfl
@[simp] theorem State.markUb_cs (r : UbReason) (s : State) : (s.markUb r).cs = s.cs := rfl
@[simp] theorem State.markUb_dc (r : UbReason) (s : State) : (s.markUb r).dc = s.dc := rfl
@[simp] theorem State.markUb_rst (r : UbReason) (s : State) : (s.markUb r).rst = s.rst := rfl
@[simp] theorem State.markUb_bus (r : UbReason) (s : State) : (s.markUb r).bus = s.bus := rfl
@[simp] theorem State.markUb_trace (r : UbReason) (s : State) : (s.markUb r).trace = s.trace := rfl
@[simp] theorem State.markUb_ctl (r : UbReason) (s : State) : (s.markUb r).ctl = s.ctl := rfl
@[simp] theorem State.markUb_inbox (r : UbReason) (s : State) : (s.markUb r).inbox = s.inbox := rfl
@[simp] theorem State.markUb_hang (r : UbReason) (s : State) : (s.markUb r).hang = s.hang := rfl

@[simp] theorem emit_par (e : Event) (s : State) : (emit e s).par = s.par := rfl
@[simp] theorem emit_constructed (e : Event) (s : State) : (emit e s).constructed = s.constructed := rfl
@[simp] theorem emit_cfg (e : Event) (s : State) : (emit e s).cfg = s.cfg := rfl
@[simp] theorem emit_drv (e : Event) (s : State) : (emit e s).drv = s.drv := rfl
@[simp] theorem emit_seq (e : Event) (s : State) : (emit e s).seq = s.seq := rfl
@[simp] theorem emit_ubMarks (e : Event) (s : State) : (emit e s).ubMarks = s.ubMarks := rfl
@[simp] theorem emit_cs (e : Event) (s : State) : (emit e s).cs = s.cs.after .cs e := rfl
@[simp] theorem emit_dc (e : Event) (s : State) : (emit e s).dc = s.dc.after .dc e := rfl
@[simp] theorem emit_rst (e : Event) (s : State) : (emit e s).rst = s.rst.after .rst e := rfl
@[simp] theorem emit_bus (e : Event) (s : State) : (emit e s).bus = s.bus.after e := rfl
@[simp] theorem emit_trace (e : Event) (s : State) : (emit e s).trace = s.trace ++ [e] := rfl
@[simp] theorem emit_ctl (e : Event) (s : State) : (emit e s).ctl = s.ctl.event s.par e := rfl
@[simp] theorem emit_inbox (e : Event) (s : State) : (emit e s).inbox = s.inbox := rfl
@[simp] theorem emit_hang (e : Event) (s : State) : (emit e s).hang = s.hang.map (· - 1) := rfl

@[simp] theorem State.construct_par (cs dc rst sck mosi : LineId) (v : Bool) (s : State) : (s.construct cs dc rst sck mosi v).par = s.par := rfl
@[simp] theorem State.construct_constructed (cs dc rst sck mosi : LineId) (v : Bool) (s : State) : (s.construct cs dc rst sck mosi v).constructed = true := rfl
@[simp] theorem State.construct_cfg (cs dc rst sck mosi : LineId) (v : Bool) (s : State) : (s.construct cs dc rst sck mosi v).cfg = ⟨cs, dc, rst, sck, mosi, v⟩ := rfl
@[simp] theorem State.construct_drv (cs dc rst sck mosi : LineId) (v : Bool) (s : State) : (s.construct cs dc rst sck mosi v).drv = .unconfigured := rfl
@[simp] theorem State.construct_seq (cs dc rst sck mosi : LineId) (v : Bool) (s : State) : (s.construct cs dc rst sck mosi v).seq = .idle := rfl
@[simp] theorem State.construct_ubMarks (cs dc rst sck mosi : LineId) (v : Bool) (s : State) : (s.construct cs dc rst sck mosi v).ubMarks = if s.constructed then s.ubMarks else [] := rfl
@[simp] theorem State.construct_cs (cs dc rst sck mosi : LineId) (v : Bool) (s : State) : (s.construct cs dc rst sck mosi v).cs = { configured := false, level := .unknown } := rfl
@[simp] theorem State.construct_dc (cs dc rst sck mosi : LineId) (v : Bool) (s : State) : (s.construct cs dc rst sck mosi v).dc = { configured := false, level := .unknown } := rfl
@[simp] theorem State.construct_rst (cs dc rst sck mosi : LineId) (v : Bool) (s : State) : (s.construct cs dc rst sck mosi v).rst = { configured := false, level := .unknown } := rfl
@[simp] theorem State.construct_bus (cs dc rst sck mosi : LineId) (v : Bool) (s : State) : (s.construct cs dc rst sck mosi v).bus = .none := rfl
@[simp] theorem State.construct_trace (cs dc rst sck mosi : LineId) (v : Bool) (s : State) : (s.construct cs dc rst sck mosi v).trace = s.trace := rfl
@[simp] theorem State.construct_ctl (cs dc rst sck mosi : LineId) (v : Bool) (s : State) : (s.construct cs dc rst sck mosi v).ctl = s.ctl := rfl
@[simp] theorem State.construct_inbox (cs dc rst sck mosi : LineId) (v : Bool) (s : State) : (s.construct cs dc rst sck mosi v).inbox = s.inbox := rfl
@[simp] theorem State.construct_hang (cs dc rst sck mosi : LineId) (v : Bool) (s : State) : (s.construct cs dc rst sck mosi v).hang = s.hang := rfl

@[simp] theorem State.load_par (ws : List RequestWord) (s : State) : (s.load ws).par = s.par := rfl
@[simp] theorem State.load_constructed (ws : List RequestWord) (s : State) : (s.load ws).constructed = s.constructed := rfl
@[simp] theorem State.load_cfg (ws : List RequestWord) (s : State) : (s.load ws).cfg = s.cfg := rfl
@[simp] theorem State.load_drv (ws : List RequestWord) (s : State) : (s.load ws).drv = s.drv := rfl
@[simp] theorem State.load_seq (ws : List RequestWord) (s : State) : (s.load ws).seq = s.seq := rfl
@[simp] theorem State.load_ubMarks (ws : List RequestWord) (s : State) : (s.load ws).ubMarks = s.ubMarks := rfl
@[simp] theorem State.load_cs (ws : List RequestWord) (s : State) : (s.load ws).cs = s.cs := rfl
@[simp] theorem State.load_dc (ws : List RequestWord) (s : State) : (s.load ws).dc = s.dc := rfl
@[simp] theorem State.load_rst (ws : List RequestWord) (s : State) : (s.load ws).rst = s.rst := rfl
@[simp] theorem State.load_bus (ws : List RequestWord) (s : State) : (s.load ws).bus = s.bus := rfl
@[simp] theorem State.load_trace (ws : List RequestWord) (s : State) : (s.load ws).trace = s.trace := rfl
@[simp] theorem State.load_ctl (ws : List RequestWord) (s : State) : (s.load ws).ctl = s.ctl := rfl
@[simp] theorem State.load_inbox (ws : List RequestWord) (s : State) : (s.load ws).inbox = s.inbox ++ ws.map .request := rfl
@[simp] theorem State.load_hang (ws : List RequestWord) (s : State) : (s.load ws).hang = s.hang := rfl

@[simp] theorem drawEntry_par (s : State) : (drawEntry s).par = s.par := by
  unfold drawEntry; split <;> rfl
@[simp] theorem drawEntry_constructed (s : State) : (drawEntry s).constructed = s.constructed := by
  unfold drawEntry; split <;> rfl
@[simp] theorem drawEntry_cfg (s : State) : (drawEntry s).cfg = s.cfg := by
  unfold drawEntry; split <;> rfl
@[simp] theorem drawEntry_drv (s : State) : (drawEntry s).drv = s.drv := by
  unfold drawEntry; split <;> rfl
@[simp] theorem drawEntry_seq (s : State) : (drawEntry s).seq = s.seq := by
  unfold drawEntry; split <;> rfl
@[simp] theorem drawEntry_cs (s : State) : (drawEntry s).cs = s.cs := by
  unfold drawEntry; split <;> rfl
@[simp] theorem drawEntry_dc (s : State) : (drawEntry s).dc = s.dc := by
  unfold drawEntry; split <;> rfl
@[simp] theorem drawEntry_rst (s : State) : (drawEntry s).rst = s.rst := by
  unfold drawEntry; split <;> rfl
@[simp] theorem drawEntry_bus (s : State) : (drawEntry s).bus = s.bus := by
  unfold drawEntry; split <;> rfl
@[simp] theorem drawEntry_trace (s : State) : (drawEntry s).trace = s.trace := by
  unfold drawEntry; split <;> rfl
@[simp] theorem drawEntry_ctl (s : State) : (drawEntry s).ctl = s.ctl := by
  unfold drawEntry; split <;> rfl
@[simp] theorem drawEntry_inbox (s : State) : (drawEntry s).inbox = s.inbox := by
  unfold drawEntry; split <;> rfl
@[simp] theorem drawEntry_hang (s : State) : (drawEntry s).hang = s.hang := by
  unfold drawEntry; split <;> rfl

@[simp] theorem initEntry_par (s : State) : (initEntry s).par = s.par := by
  unfold initEntry; split <;> rfl
@[simp] theorem initEntry_constructed (s : State) : (initEntry s).constructed = s.constructed := by
  unfold initEntry; split <;> rfl
@[simp] theorem initEntry_cfg (s : State) : (initEntry s).cfg = s.cfg := by
  unfold initEntry; split <;> rfl
@[simp] theorem initEntry_drv (s : State) : (initEntry s).drv = s.drv := by
  unfold initEntry; split <;> rfl
@[simp] theorem initEntry_seq (s : State) : (initEntry s).seq = s.seq := by
  unfold initEntry; split <;> rfl
@[simp] theorem initEntry_cs (s : State) : (initEntry s).cs = s.cs := by
  unfold initEntry; split <;> rfl
@[simp] theorem initEntry_dc (s : State) : (initEntry s).dc = s.dc := by
  unfold initEntry; split <;> rfl
@[simp] theorem initEntry_rst (s : State) : (initEntry s).rst = s.rst := by
  unfold initEntry; split <;> rfl
@[simp] theorem initEntry_bus (s : State) : (initEntry s).bus = s.bus := by
  unfold initEntry; split <;> rfl
@[simp] theorem initEntry_trace (s : State) : (initEntry s).trace = s.trace := by
  unfold initEntry; split <;> rfl
@[simp] theorem initEntry_ctl (s : State) : (initEntry s).ctl = s.ctl := by
  unfold initEntry; split <;> rfl
@[simp] theorem initEntry_inbox (s : State) : (initEntry s).inbox = s.inbox := by
  unfold initEntry; split <;> rfl
@[simp] theorem initEntry_hang (s : State) : (initEntry s).hang = s.hang := by
  unfold initEntry; split <;> rfl

@[simp] theorem entryMarks_par (i : Instr) (s : State) : (entryMarks i s).par = s.par := by
  cases i <;> simp [entryMarks]
@[simp] theorem entryMarks_constructed (i : Instr) (s : State) : (entryMarks i s).constructed = s.constructed := by
  cases i <;> simp [entryMarks]
@[simp] theorem entryMarks_cfg (i : Instr) (s : State) : (entryMarks i s).cfg = s.cfg := by
  cases i <;> simp [entryMarks]
@[simp] theorem entryMarks_drv (i : Instr) (s : State) : (entryMarks i s).drv = s.drv := by
  cases i <;> simp [entryMarks]
@[simp] theorem entryMarks_seq (i : Instr) (s : State) : (entryMarks i s).seq = s.seq := by
  cases i <;> simp [entryMarks]
@[simp] theorem entryMarks_cs (i : Instr) (s : State) : (entryMarks i s).cs = s.cs := by
  cases i <;> simp [entryMarks]
@[simp] theorem entryMarks_dc (i : Instr) (s : State) : (entryMarks i s).dc = s.dc := by
  cases i <;> simp [entryMarks]
@[simp] theorem entryMarks_rst (i : Instr) (s : State) : (entryMarks i s).rst = s.rst := by
  cases i <;> simp [entryMarks]
@[simp] theorem entryMarks_bus (i : Instr) (s : State) : (entryMarks i s).bus = s.bus := by
  cases i <;> simp [entryMarks]
@[simp] theorem entryMarks_trace (i : Instr) (s : State) : (entryMarks i s).trace = s.trace := by
  cases i <;> simp [entryMarks]
@[simp] theorem entryMarks_ctl (i : Instr) (s : State) : (entryMarks i s).ctl = s.ctl := by
  cases i <;> simp [entryMarks]
@[simp] theorem entryMarks_inbox (i : Instr) (s : State) : (entryMarks i s).inbox = s.inbox := by
  cases i <;> simp [entryMarks]
@[simp] theorem entryMarks_hang (i : Instr) (s : State) : (entryMarks i s).hang = s.hang := by
  cases i <;> simp [entryMarks]

@[simp] theorem accepted_par (i : Instr) (s : State) : (accepted i s).par = s.par := by
  simp [accepted]
@[simp] theorem accepted_constructed (i : Instr) (s : State) : (accepted i s).constructed = s.constructed := by
  simp [accepted]
@[simp] theorem accepted_cfg (i : Instr) (s : State) : (accepted i s).cfg = s.cfg := by
  simp [accepted]
@[simp] theorem accepted_drv (i : Instr) (s : State) : (accepted i s).drv = s.drv := by
  simp [accepted]
@[simp] theorem accepted_seq (i : Instr) (s : State) : (accepted i s).seq = .busy i 0 := rfl
@[simp] theorem accepted_ubMarks (i : Instr) (s : State) :
    (accepted i s).ubMarks = (entryMarks i s).ubMarks := rfl
@[simp] theorem accepted_cs (i : Instr) (s : State) : (accepted i s).cs = s.cs := by
  simp [accepted]
@[simp] theorem accepted_dc (i : Instr) (s : State) : (accepted i s).dc = s.dc := by
  simp [accepted]
@[simp] theorem accepted_rst (i : Instr) (s : State) : (accepted i s).rst = s.rst := by
  simp [accepted]
@[simp] theorem accepted_bus (i : Instr) (s : State) : (accepted i s).bus = s.bus := by
  simp [accepted]
@[simp] theorem accepted_trace (i : Instr) (s : State) : (accepted i s).trace = s.trace := by
  simp [accepted]
@[simp] theorem accepted_ctl (i : Instr) (s : State) : (accepted i s).ctl = s.ctl := by
  simp [accepted]
@[simp] theorem accepted_inbox (i : Instr) (s : State) : (accepted i s).inbox = s.inbox := by
  simp [accepted]
@[simp] theorem accepted_hang (i : Instr) (s : State) : (accepted i s).hang = s.hang := by
  simp [accepted]

@[simp] theorem finish_par (i : Instr) (s : State) : (finish i s).par = s.par := by
  cases i <;> rfl
@[simp] theorem finish_trace (i : Instr) (s : State) : (finish i s).trace = s.trace := by
  cases i <;> rfl
@[simp] theorem finish_ctl (i : Instr) (s : State) : (finish i s).ctl = s.ctl := by
  cases i <;> rfl
@[simp] theorem finish_inbox (i : Instr) (s : State) : (finish i s).inbox = s.inbox := by
  cases i <;> rfl
@[simp] theorem finish_hang (i : Instr) (s : State) : (finish i s).hang = s.hang := by
  cases i <;> rfl
@[simp] theorem finish_seq (i : Instr) (s : State) : (finish i s).seq = .idle := by
  cases i <;> rfl

end Sys2Proof.Machine
end

