-- ==== Sys2Proof/Laws/Ops.lean ====
section
/-! SUPPORT. What each shared operation can do, said once. -/

namespace Sys2Proof.Machine

theorem State.held_of_hang_none {s : State} (h : s.hang = none) : s.held = false := by
  simp [State.held, h]

/-- What a trace performed in order leaves in each field. -/
theorem emitAll_fields (es : List Event) (s : State) :
    (emitAll es s).par = s.par ∧ (emitAll es s).constructed = s.constructed ∧
    (emitAll es s).cfg = s.cfg ∧ (emitAll es s).drv = s.drv ∧ (emitAll es s).seq = s.seq ∧
    (emitAll es s).ubMarks = s.ubMarks ∧ (emitAll es s).inbox = s.inbox ∧
    (emitAll es s).trace = s.trace ++ es ∧ (emitAll es s).ctl = s.ctl.run s.par es ∧
    (emitAll es s).cs = es.foldl (fun v e => v.after .cs e) s.cs ∧
    (emitAll es s).dc = es.foldl (fun v e => v.after .dc e) s.dc ∧
    (emitAll es s).rst = es.foldl (fun v e => v.after .rst e) s.rst ∧
    (emitAll es s).bus = es.foldl (fun v e => v.after e) s.bus := by
  induction es generalizing s with
  | nil => simp [emitAll]
  | cons e es ih => simpa [emitAll] using ih (emit e s)

theorem emitAll_hang_none (es : List Event) {s : State} (h : s.hang = none) :
    (emitAll es s).hang = none := by
  induction es generalizing s with
  | nil => exact h
  | cons e es ih => exact ih (by simp [h])

theorem emitAll_append (es fs : List Event) (s : State) :
    emitAll (es ++ fs) s = emitAll fs (emitAll es s) := by
  induction es generalizing s with
  | nil => rfl
  | cons e es ih => exact ih _

/-- With every port completing, the sequencer performs all the events it has and finishes. -/
theorem drain_completes (i : Instr) (es : List Event) (k : Nat) {s : State} (h : s.hang = none) :
    drain i es k s = finish i (emitAll es s) := by
  induction es generalizing k s with
  | nil => rfl
  | cons e es ih =>
    simp only [drain, State.held_of_hang_none h, Bool.false_eq_true, ↓reduceIte, emitAll]
    exact ih (k + 1) (by simp [h])

/-- Everything `drain` can do: finish, or stop at the event a port never completes. -/
theorem drain_cases (i : Instr) (es : List Event) (k : Nat) (s : State) :
    drain i es k s = finish i (emitAll es s) ∨
      ∃ n, n < es.length ∧
        drain i es k s = { emitAll (es.take n) s with seq := .busy i (k + n) } := by
  induction es generalizing k s with
  | nil => exact .inl rfl
  | cons e es ih =>
    unfold drain
    split
    · exact .inr ⟨0, by simp, rfl⟩
    · rcases ih (k + 1) (emit e s) with h | ⟨n, hn, h⟩
      · exact .inl h
      · refine .inr ⟨n + 1, by simpa using hn, ?_⟩
        rw [h]
        simp [emitAll, Nat.add_assoc, Nat.add_comm 1 n]

/-- An operation performed whole, with every port completing. -/
theorem perform_completes (i : Instr) {s : State} (h : s.hang = none) :
    perform i s = finish i (emitAll (traceOf s.par s.cfg i) (entryMarks i s)) :=
  drain_completes i _ 0 (by simp [h])

theorem whenIdle_next {s t u : State} (h : whenIdle s t = .next u) : s.seq = .idle ∧ u = t := by
  unfold whenIdle at h
  split at h
  · exact ⟨‹_›, by simpa using h.symm⟩
  · simp at h

theorem whenConstructed_next {s t u : State} (h : whenConstructed s t = .next u) :
    s.seq = .idle ∧ s.constructed = true ∧ u = t := by
  unfold whenConstructed at h
  split at h
  · split at h
    · exact ⟨‹_›, ‹_›, by simpa using h.symm⟩
    · simp at h
  · simp at h

/-- Everything an instruction can do when it answers a next state: it found the sequencer IDLE and was
performed. -/
theorem exec_next {i : Instr} {s t : State} (h : exec i s = .next t) :
    s.seq = .idle ∧ t = perform i s := by
  cases i <;> simp only [exec, execConstruct, execInit, execFillScreen, execFillRect, execDrawPixel,
    execWriteCommand, execWriteData, execWriteDataBuf, execSetWindow, execPixelStream, execSwreset,
    execSlpout, execColmod, execMadctl, execInvoff, execInvon, execDispon, execCaset, execRaset,
    execRamwr] at h
  case construct => exact whenIdle_next h
  case init =>
    split at h
    · simp at h
    · exact ⟨(whenConstructed_next h).1, (whenConstructed_next h).2.2⟩
  case fillScreen => exact ⟨(whenConstructed_next h).1, (whenConstructed_next h).2.2⟩
  case fillRect => exact ⟨(whenConstructed_next h).1, (whenConstructed_next h).2.2⟩
  case drawPixel => exact ⟨(whenConstructed_next h).1, (whenConstructed_next h).2.2⟩
  case writeDataBuf =>
    split at h
    · simp at h
    · exact whenIdle_next h
  case pixelStream =>
    split at h
    · simp at h
    · exact whenIdle_next h
  all_goals exact whenIdle_next h

/-- Everything a step can do when it answers a next state. -/
theorem step_next {s t : State} (h : step s = .next t) :
    ((∃ i k, s.seq = .busy i k) ∧ t = tick s) ∨
    (s.seq = .idle ∧ s.inbox = [] ∧ t = s) ∨
    ∃ w rest i, s.seq = .idle ∧ s.inbox = w :: rest ∧ decode s.par.cmds w = .ok i ∧
      exec i { s with inbox := leftover s.par.cmds w ++ rest } = .next t := by
  unfold step at h
  split at h
  · rename_i i k hq
    exact .inl ⟨⟨i, k, hq⟩, by simpa using h.symm⟩
  · rename_i hq
    unfold fetch at h
    cases hi : s.inbox with
    | nil =>
      simp only [hi] at h
      exact .inr (.inl ⟨hq, rfl, by simpa using h.symm⟩)
    | cons w rest =>
      simp only [hi] at h
      cases hd : decode s.par.cmds w with
      | error e => simp [hd] at h
      | ok i =>
        simp only [hd] at h
        exact .inr (.inr ⟨w, rest, i, hq, rfl, hd, h⟩)

/-- Everything the sequencer's step can do at `(i, k)`: finish an operation with no event left, wait at a
port that never completes, perform the last event and finish, or perform one and advance. -/
theorem tick_busy {s : State} {i : Instr} {k : Nat} (h : s.seq = .busy i k) :
    ((traceOf s.par s.cfg i).drop k = [] ∧ tick s = finish i s) ∨
    ((traceOf s.par s.cfg i).drop k ≠ [] ∧ s.held = true ∧ tick s = s) ∨
    (∃ e, (traceOf s.par s.cfg i).drop k = [e] ∧ s.held = false ∧ tick s = finish i (emit e s)) ∨
    ∃ e f rest, (traceOf s.par s.cfg i).drop k = e :: f :: rest ∧ s.held = false ∧
      tick s = { emit e s with seq := .busy i (k + 1) } := by
  unfold tick
  rw [h]
  simp only
  split
  · rename_i hd
    exact .inl ⟨hd, rfl⟩
  · rename_i e hd
    cases hh : s.held with
    | true => exact .inr (.inl ⟨by simp [hd], rfl, by simp⟩)
    | false => exact .inr (.inr (.inl ⟨e, hd, rfl, by simp⟩))
  · rename_i e f rest hd
    cases hh : s.held with
    | true => exact .inr (.inl ⟨by simp [hd], rfl, by simp⟩)
    | false => exact .inr (.inr (.inr ⟨e, f, rest, hd, rfl, by simp⟩))

end Sys2Proof.Machine
end

