-- ==== Sys2Proof/Laws/PerInstr.lean ====
section
/-! SUPPORT. Every instruction's encoding, under the default command bytes, fits its row of
spec/opcode_table.json: the row's format and width, and the row's match under its mask. -/

namespace Sys2Proof.Laws.OpcodeRow

/-- A row of spec/opcode_table.json: a request's 96-bit match and mask, a micro-op's code, or a command's
byte. -/
inductive Row where
  | req (val mask : RequestWord)
  | micro (code : Byte)
  | cmd (code : Byte)
  deriving DecidableEq, Repr

/-- The row of each instruction, transcribed from spec/opcode_table.json. -/
def row : Instr → Row
  | .construct _ _ _ _ _ _ => .req 0x000000000000000000000000 0x00000000000000000000FEFF
  | .init _ => .req 0x000000000000000000000001 0xFFFFFFFFFFFF00000000FFFF
  | .fillScreen _ => .req 0x000000000000000000000002 0xFFFFFFFFFFFFFFFF0000FFFF
  | .fillRect _ _ _ _ _ => .req 0x000000000000000000000003 0x00000000000000000000FFFF
  | .drawPixel _ _ _ => .req 0x000000000000000000000004 0xFFFFFFFF000000000000FFFF
  | .writeCommand _ => .micro 0x10
  | .writeData _ => .micro 0x11
  | .writeDataBuf _ => .micro 0x12
  | .setWindow _ _ _ _ => .micro 0x13
  | .pixelStream _ _ _ => .micro 0x14
  | .swreset => .cmd 0x01
  | .slpout => .cmd 0x11
  | .colmod _ => .cmd 0x3A
  | .madctl _ => .cmd 0x36
  | .invoff => .cmd 0x20
  | .invon => .cmd 0x21
  | .dispon => .cmd 0x29
  | .caset _ _ => .cmd 0x2A
  | .raset _ _ => .cmd 0x2B
  | .ramwr _ => .cmd 0x2C

/-- What is presented fits a row. -/
def Fits : Row → Presented → Prop
  | .req val mask, .request q => q &&& mask = val
  | .micro code, .micro (b :: _) => b = code
  | .cmd code, .command b _ => b = code
  | _, _ => False

/-- The instruction's encoding fits its row. -/
def Statement (i : Instr) : Prop := Fits (row i) (encode defaultCmds i)

/-- Masking a request word masks its fields. -/
theorem requestWord_and (o r o' r' : Byte) (a b c d e a' b' c' d' e' : Word16) :
    requestWord o r a b c d e &&& requestWord o' r' a' b' c' d' e' =
      requestWord (o &&& o') (r &&& r') (a &&& a') (b &&& b') (c &&& c') (d &&& d') (e &&& e') := by
  unfold requestWord
  refine (BitVec.and_append (x₁ := e ++ d ++ c ++ b ++ a ++ r) (y₁ := o)
    (x₂ := e' ++ d' ++ c' ++ b' ++ a' ++ r') (y₂ := o')).trans ?_
  rw [BitVec.and_append, BitVec.and_append, BitVec.and_append, BitVec.and_append, BitVec.and_append]

theorem word16_and_zero (v : Word16) : v &&& (0 : Word16) = 0 := BitVec.and_zero

theorem construct (cs dc rst sck mosi : LineId) (invert : Bool) :
    Statement (.construct cs dc rst sck mosi invert) := by
  have hm : (0x00000000000000000000FEFF : RequestWord) = requestWord 0xFF 0xFE 0 0 0 0 0 := by decide
  cases invert <;>
    simp only [Statement, Fits, row, encode, hm, requestWord_and, word16_and_zero] <;> rfl

theorem init (r : BitRate) : Statement (.init r) := by
  have hm : (0xFFFFFFFFFFFF00000000FFFF : RequestWord)
      = requestWord 0xFF 0xFF 0 0 0xFFFF 0xFFFF 0xFFFF := by decide
  simp only [Statement, Fits, row, encode, hm, requestWord_and, word16_and_zero]
  rfl

theorem fillScreen (color : Word16) : Statement (.fillScreen color) := by
  have hm : (0xFFFFFFFFFFFFFFFF0000FFFF : RequestWord)
      = requestWord 0xFF 0xFF 0 0xFFFF 0xFFFF 0xFFFF 0xFFFF := by decide
  simp only [Statement, Fits, row, encode, hm, requestWord_and, word16_and_zero]
  rfl

theorem fillRect (x y w h color : Word16) : Statement (.fillRect x y w h color) := by
  have hm : (0x00000000000000000000FFFF : RequestWord) = requestWord 0xFF 0xFF 0 0 0 0 0 := by decide
  simp only [Statement, Fits, row, encode, hm, requestWord_and, word16_and_zero]
  rfl

theorem drawPixel (x y color : Word16) : Statement (.drawPixel x y color) := by
  have hm : (0xFFFFFFFF000000000000FFFF : RequestWord)
      = requestWord 0xFF 0xFF 0 0 0 0xFFFF 0xFFFF := by decide
  simp only [Statement, Fits, row, encode, hm, requestWord_and, word16_and_zero]
  rfl

theorem writeCommand (b : Byte) : Statement (.writeCommand b) := rfl

theorem writeData (b : Byte) : Statement (.writeData b) := rfl

theorem writeDataBuf (bytes : List Byte) : Statement (.writeDataBuf bytes) := rfl

theorem setWindow (x0 y0 x1 y1 : Word16) : Statement (.setWindow x0 y0 x1 y1) := rfl

theorem pixelStream (hi lo : Byte) (n : Nat) : Statement (.pixelStream hi lo n) := rfl

theorem swreset : Statement .swreset := rfl

theorem slpout : Statement .slpout := rfl

theorem colmod (p : Byte) : Statement (.colmod p) := rfl

theorem madctl (p : Byte) : Statement (.madctl p) := rfl

theorem invoff : Statement .invoff := rfl

theorem invon : Statement .invon := rfl

theorem dispon : Statement .dispon := rfl

theorem caset (x0 x1 : Word16) : Statement (.caset x0 x1) := rfl

theorem raset (y0 y1 : Word16) : Statement (.raset y0 y1) := rfl

theorem ramwr (pixels : List Word16) : Statement (.ramwr pixels) := rfl

end Sys2Proof.Laws.OpcodeRow
end

