-- ==== Sys2Proof/Laws/Txn.lean ====
section
/-! SUPPORT. What a transaction (41_framer.md R110) does to the block and to the controller, said once. -/

namespace Sys2Proof.Machine

theorem whenIdle_of_idle {s : State} (h : s.seq = .idle) (t : State) : whenIdle s t = .next t := by
  simp [whenIdle, h]

theorem whenConstructed_of_fresh {s : State} (h : s.Fresh) (t : State) :
    whenConstructed s t = .next t := by
  simp [whenConstructed, h.1, h.2.1]

/-- The bytes of a transaction, received with chip-select active. -/
def Ctl.receiveAll (p : Params) (bytes : List Byte) (o : Ctl) : Ctl :=
  o.run p (bytes.map .tx)

@[simp] theorem Ctl.receiveAll_nil (p : Params) (o : Ctl) : o.receiveAll p [] = o := rfl

@[simp] theorem Ctl.receiveAll_cons (p : Params) (b : Byte) (bs : List Byte) (o : Ctl) :
    o.receiveAll p (b :: bs) = (o.event p (.tx b)).receiveAll p bs := rfl

/-- A transaction is the mode, the assert, the bytes and the deassert. -/
theorem Ctl.run_txn (p : Params) (mode : Level) (bytes : List Byte) (o : Ctl) :
    o.run p (txn p mode bytes) =
      (Ctl.receiveAll p bytes ((o.event p (.set .dc mode)).event p (.set .cs p.csActive))).event p
        (.set .cs p.csActive.flip) := by
  simp [txn, Ctl.run_append, Ctl.receiveAll]

/-- A command transaction on a controller that accepts a command byte (44_controller.md R143). -/
theorem Ctl.run_command_txn {p : Params} {o : Ctl} (h : o.Accepts) {b : Byte} {c : Cmd}
    (hc : p.cmds.cmdOf b = some c) :
    o.run p (txn p .low [b]) =
      { Ctl.runCommand p c { o with
          cs := .known p.csActive, dc := .known .low, cmd := .cmd c, params := .known [] } with
        cs := .known p.csActive.flip } := by
  obtain ⟨bad, cs, dc, rst, resetDone, lowMs, quiet, cmd, params, sleep, disp, inv, colmod, madctl, xs,
    xe, ys, ye, cx, cy, half, fb⟩ := o
  obtain ⟨h1, h2, h3, h4, h5⟩ := h
  simp only at h1 h2 h3 h4
  subst h1 h2 h3 h4
  have h6 : Ctl.complete ⟨false, .known p.csActive, .known .low, .known .high, .known true, lowMs, .known 0, cmd,
    params, sleep, disp, inv, colmod, madctl, xs, xe, ys, ye, cx, cy, half, fb⟩ = true := h5
  rw [Ctl.run_txn]
  simp only [Ctl.receiveAll_cons, Ctl.receiveAll_nil, Ctl.event, Bool.false_eq_true, ↓reduceIte,
    Ctl.receive, and_self, Ctl.commandByte, h6, hc]
  cases c <;> rfl

/-- A command transaction on a controller that accepts none breaks it (44_controller.md R144, R160). -/
theorem Ctl.run_command_txn_bad {p : Params} {o : Ctl} (h : ¬o.Accepts) (b : Byte) :
    (o.run p (txn p .low [b])).bad = true := by
  obtain ⟨bad, cs, dc, rst, resetDone, lowMs, quiet, cmd, params, sleep, disp, inv, colmod, madctl, xs,
    xe, ys, ye, cx, cy, half, fb⟩ := o
  cases bad with
  | true => rw [Ctl.run_of_bad p _ rfl]
  | false =>
    rw [Ctl.run_txn]
    simp only [Ctl.receiveAll_cons, Ctl.receiveAll_nil, Ctl.event, Bool.false_eq_true, ↓reduceIte,
      Ctl.receive]
    by_cases h2 : resetDone = .known true ∧ rst = .known .high ∧ quiet = .known 0
    · simp only [h2, and_self, ↓reduceIte, Ctl.commandByte]
      split
      · rename_i h5
        obtain ⟨ha, hb, hc⟩ := h2
        exact absurd ⟨rfl, ha, hb, hc, h5⟩ h
      · rfl
    · simp [h2]

/-- A transaction performed by the ports, all of them completing (10_state.md R43). -/
theorem emitAll_txn {s : State} {p : Params} (hp : s.par = p) (h : s.hang = none) (mode : Level)
    (bytes : List Byte) : emitAll (txn p mode bytes) s = s.afterTxns mode (txn p mode bytes) := by
  subst hp
  have hb : ∀ (bs : List Byte) (v : LineState) (l : Line),
      (bs.map Event.tx).foldl (fun v e => v.after l e) v = v := by
    intro bs v l
    induction bs with
    | nil => rfl
    | cons b bs ih => exact ih
  have hu : ∀ (bs : List Byte) (v : Bus), (bs.map Event.tx).foldl (fun v e => v.after e) v = v := by
    intro bs v
    induction bs with
    | nil => rfl
    | cons b bs ih => exact ih
  have hf := emitAll_fields (txn s.par mode bytes) s
  have hn := emitAll_hang_none (txn s.par mode bytes) h
  obtain ⟨h1, h2, h3, h4, h5, h6, h7, h8, h9, h10, h11, h12, h13⟩ := hf
  generalize hg : emitAll (txn s.par mode bytes) s = t at *
  cases t
  cases s
  simp only [txn, List.foldl_cons, List.foldl_append, List.foldl_nil, LineState.after,
    Bus.after, State.afterTxns] at *
  simp_all

@[simp] theorem State.afterTxns_par (s : State) (m : Level) (es : List Event) :
    (s.afterTxns m es).par = s.par := rfl

@[simp] theorem State.afterTxns_cfg (s : State) (m : Level) (es : List Event) :
    (s.afterTxns m es).cfg = s.cfg := rfl

@[simp] theorem State.afterTxns_hang (s : State) (m : Level) (es : List Event) :
    (s.afterTxns m es).hang = s.hang := rfl

/-- Transactions in order are one list of events. -/
@[simp] theorem State.afterTxns_afterTxns (s : State) (m m' : Level) (es fs : List Event) :
    (s.afterTxns m es).afterTxns m' fs = s.afterTxns m' (es ++ fs) := by
  simp [State.afterTxns, Ctl.run_append]

/-- Transactions in order, performed by the ports: the last one's mode stays on the line (10_state.md R43). -/
theorem emitAll_txns {s : State} {p : Params} (hp : s.par = p) (h : s.hang = none)
    (ts : List (Level × List Byte)) (mode : Level) (bytes : List Byte) :
    emitAll ((ts.flatMap fun t => txn p t.1 t.2) ++ txn p mode bytes) s =
      s.afterTxns mode ((ts.flatMap fun t => txn p t.1 t.2) ++ txn p mode bytes) := by
  induction ts generalizing s with
  | nil => exact emitAll_txn hp h mode bytes
  | cons t ts ih =>
    rw [List.flatMap_cons, List.append_assoc, emitAll_append, emitAll_txn hp h,
      ih (s := s.afterTxns t.1 _) hp h, State.afterTxns_afterTxns]

end Sys2Proof.Machine
end

