-- ==== Sys2Proof/Tests/Slice0.lean ====
section
/-! SUPPORT. The model's own tests: ill-formed terms refused, words decoded, one step of each instruction against
the vectors of 95_test_vectors.md, and for every statement with hypotheses a state and operands that meet them. -/

namespace Sys2Proof.Tests

open Sys2Proof.Machine

/-! ## States the tests start from -/

/-- The state an outcome answers, none for a refusal. -/
def answer (o : Host.Outcome State Fault Refusal) : Option State :=
  match o with
  | .next t => some t
  | .fault _ => none
  | .refused _ => none

/-- The refusal an outcome answers. -/
def refusal (o : Host.Outcome State Fault Refusal) : Option Refusal :=
  match o with
  | .next _ => none
  | .fault _ => none
  | .refused r => some r

/-- After `CONSTRUCT 17, 16, 20, 18, 19`. -/
def built : State := { State.reset with constructed := true, cfg := ⟨17, 16, 20, 18, 19, false⟩ }

/-- A controller after V-INIT-1: initialized, at rest, window and cursor UNKNOWN. -/
def initialized : Ctl :=
  { Ctl.powerOn with
    cs := .known .high, dc := .known .low, rst := .known .high, resetDone := .known true,
    lowMs := .known 100, cmd := .cmd .dispon, sleep := .known .awake, disp := .known .on, inv := .known .off,
    colmod := .known 0x55, madctl := .known 0x00 }

/-- The block after V-INIT-1. -/
def ready : State :=
  { built with
    drv := .ready, bus := .rate 16000000, cs := ⟨true, .known .high⟩, dc := ⟨true, .known .low⟩,
    rst := ⟨true, .known .high⟩, ctl := initialized }

/-- A controller with the window `(235,315)-(239,319)` and RAMWR current, its cursor at `(cx, cy)`. -/
def armedAt (cx cy : Nat) (half : Option Byte) : Ctl :=
  { initialized with
    cmd := .cmd .ramwr, xs := .known 235, xe := .known 239, ys := .known 315, ye := .known 319,
    cx := .known cx, cy := .known cy, half := .known half }

/-- `ready` with that controller. -/
def armed (cx cy : Nat) (half : Option Byte) : State := { ready with ctl := armedAt cx cy half }

theorem window_kept_armed (cx cy : Nat) (half : Option Byte) : (armedAt cx cy half).WindowKept := by
  simp [Ctl.WindowKept, armedAt, panelWidth, panelHeight]

theorem cursor_kept_armed (cx cy : Nat) (half : Option Byte)
    (h : 235 ≤ cx ∧ cx ≤ 239 ∧ 315 ≤ cy ∧ cy ≤ 320) : (armedAt cx cy half).CursorKept :=
  fun _ => ⟨⟨h.1, h.2.1⟩, h.2.2⟩

/-! ## Well-formedness: an ill-formed term for each check -/

theorem test_wf_init_zero : (Instr.init 0).wf = false := by decide
theorem test_wf_buffer_empty : (Instr.writeDataBuf []).wf = false := by decide
theorem test_wf_buffer_too_long (bs : List Byte) (h : maxBuffer < bs.length) :
    (Instr.writeDataBuf bs).wf = false := by
  show (decide (1 ≤ bs.length) && decide (bs.length ≤ maxBuffer)) = false
  rw [decide_eq_false (p := bs.length ≤ maxBuffer) (Nat.not_le.2 h), Bool.and_false]
theorem test_wf_stream_empty : (Instr.pixelStream 0 0 0).wf = false := by decide
theorem test_wf_stream_too_long : (Instr.pixelStream 0 0 76801).wf = false := by decide
theorem test_wf_stream_longest : (Instr.pixelStream 0 0 76800).wf = true := by decide

/-! ## Decoding: 95_test_vectors.md section 2, and each family's words by 30_encoding.md R71, R76 -/

theorem test_decode_E1 :
    decodeRequest 0x001300120014001000110000 = .ok (.construct 17 16 20 18 19 false) := by decide
theorem test_decode_E2 :
    decodeRequest 0x001300120014001000110100 = .ok (.construct 17 16 20 18 19 true) := by decide
theorem test_decode_E3 : decodeRequest 0x0000000000000001E848000001 = .ok (.init 32000000) := by
  decide
theorem test_decode_E4 : decodeRequest 0x00000000000000F424000001 = .ok (.init 16000000) := by decide
theorem test_decode_E5 : decodeRequest 0x000000000000000000000002 = .ok (.fillScreen 0) := by decide
theorem test_decode_E6 :
    decodeRequest 0x1234000200030014000A0003 = .ok (.fillRect 10 20 3 2 0x1234) := by decide
theorem test_decode_E7 :
    decodeRequest 0x00000000FFFF0014000A0004 = .ok (.drawPixel 10 20 0xFFFF) := by decide
theorem test_decode_E8 : decodeRequest 0x05 = .error .reservedOpcode := by decide
theorem test_decode_E9 : decodeRequest 0x10 = .error .reservedOpcode := by decide
theorem test_decode_E10 : decodeRequest 0x0000F8000102 = .error .reservedBits := by decide
theorem test_decode_E11 : decodeRequest 0x000100F424000001 = .error .reservedBits := by decide
theorem test_decode_E12 : decodeRequest 0x01 = .error .zeroBitRate := by decide
theorem test_decode_E13 : decodeRequest 0x000000010001000100010004 = .error .reservedBits := by
  decide
theorem test_decode_E14 : decodeRequest 0x03 = .ok (.fillRect 0 0 0 0 0) := by decide
theorem test_decode_micro_command : decodeMicro [0x10, 0x2C] = .ok (.writeCommand 0x2C) := by decide
theorem test_decode_micro_data : decodeMicro [0x11, 0x55] = .ok (.writeData 0x55) := by decide
theorem test_decode_micro_buffer :
    decodeMicro [0x12, 0, 0, 3, 0x00, 0xEB, 0x00, 0xEF] =
      .ok (.writeDataBuf [0x00, 0xEB, 0x00, 0xEF]) := by decide
theorem test_decode_micro_window :
    decodeMicro [0x13, 0x00, 0x0A, 0x00, 0x14, 0x00, 0x0C, 0x00, 0x15] =
      .ok (.setWindow 10 20 12 21) := by decide
theorem test_decode_micro_stream :
    decodeMicro [0x14, 0xF8, 0x00, 0x01, 0x2B, 0xFF] = .ok (.pixelStream 0xF8 0x00 76800) := by decide
theorem test_decode_micro_unknown : decodeMicro [0x15] = .error .badMicro := by decide
theorem test_decode_commands :
    decodeCommand defaultCmds 0x01 [] = .swreset ∧
    decodeCommand defaultCmds 0x11 [] = .slpout ∧
    decodeCommand defaultCmds 0x20 [] = .invoff ∧
    decodeCommand defaultCmds 0x21 [] = .invon ∧
    decodeCommand defaultCmds 0x29 [] = .dispon ∧
    decodeCommand defaultCmds 0x36 [0x00] = .madctl 0x00 ∧
    decodeCommand defaultCmds 0x3A [0x55] = .colmod 0x55 := by decide
theorem test_decode_ranges :
    decodeCommand defaultCmds 0x2A [0x00, 0xEB, 0x00, 0xEF] = .caset 235 239 ∧
    decodeCommand defaultCmds 0x2B [0x01, 0x3B, 0x01, 0x3F] = .raset 315 319 ∧
    decodeCommand defaultCmds 0x2C [0x12, 0x34] = .ramwr [0x1234] := by decide
/-- A byte outside the ten, and CASET with three parameters: the byte sent by itself, its data after it. -/
theorem test_decode_command_unknown :
    decodeCommand defaultCmds 0x00 [] = .writeCommand 0x00 ∧
    decodeCommand defaultCmds 0x2A [0, 0, 0] = .writeCommand 0x2A ∧
    leftover defaultCmds (.command 0x2A [1, 2, 3]) =
      [.micro [0x11, 1], .micro [0x11, 2], .micro [0x11, 3]] ∧
    leftover defaultCmds (.command 0x2A [0, 0, 0, 0]) = [] := by decide
/-- 92_eei_decisions.md D35: a byte that names two commands names none. -/
theorem test_cmdOf_doubled :
    let t := { defaultCmds with caset := 0x2B }
    t.cmdOf 0x2B = none ∧ t.cmdOf 0x2C = some .ramwr := by decide
theorem test_table_words :
    decodeTableWord 96 0x04 = some (.drawPixel 0 0 0) ∧ decodeTableWord 8 0x14 =
      some (.pixelStream 0 0 1) ∧ decodeTableWord 8 0x2A = some (.caset 0 0) := by decide

/-- E16 and 30_encoding.md R83: the assembler's range check and its default. -/
theorem test_asm :
    asmConstruct [1, 2, 3, 4, 5, 2] = .error .doesNotFit ∧
    assemble ['I', 'N', 'I', 'T'] = .ok (some (.init 32000000)) := by decide

/-! ## One step of each instruction -/

/-- The events an instruction appends to the trace of a state. -/
def emitted (i : Instr) (s : State) : Option (List Event) :=
  (answer (exec i s)).map fun t => t.trace.drop s.trace.length

/-- V1 of 40_init.md R87: the configuration is loaded, READY is lost, nothing is emitted. -/
theorem test_construct :
    (answer (exec (.construct 1 2 3 4 5 true) ready)).map (fun t => (t.cfg, t.drv, t.bus, t.trace)) =
      some (⟨1, 2, 3, 4, 5, true⟩, .unconfigured, .none, []) := by decide
/-- The first CONSTRUCT of a run is accepted; the controller is not touched. -/
theorem test_construct_first :
    (answer (exec (.construct 1 2 3 4 5 true) State.reset)).map (fun t => (t.constructed, t.ctl)) =
      some (true, Ctl.powerOn) := by decide
/-- V-INIT-1. -/
theorem test_init_block :
    (answer (exec (.init 16000000) built)).map (fun t => (t.drv, t.bus, bytesSent t.trace)) =
      some (.ready, .rate 16000000, [0x01, 0x11, 0x3A, 0x55, 0x36, 0x00, 0x20, 0x29]) ∧
    (answer (exec (.init 16000000) built)).map (fun t => (t.cs, t.dc, t.rst)) =
      some (⟨true, .known .high⟩, ⟨true, .known .low⟩, ⟨true, .known .high⟩) := by decide
/-- V-INIT-1, the observer. -/
theorem test_init_observer :
    (answer (exec (.init 16000000) built)).map (fun t => t.ctl) = some initialized := by decide
/-- D1. -/
theorem test_fillRect_D1 :
    (emitted (.fillRect 10 20 3 2 0x1234) ready).map bytesSent =
      some [0x2A, 0x00, 0x0A, 0x00, 0x0C, 0x2B, 0x00, 0x14, 0x00, 0x15, 0x2C,
        0x12, 0x34, 0x12, 0x34, 0x12, 0x34, 0x12, 0x34, 0x12, 0x34, 0x12, 0x34] := by decide
/-- D8: clipped to the last cell. -/
theorem test_fillRect_D8 :
    (emitted (.fillRect 239 319 2 2 0xF800) ready).map bytesSent =
      some [0x2A, 0x00, 0xEF, 0x00, 0xEF, 0x2B, 0x01, 0x3F, 0x01, 0x3F, 0x2C, 0xF8, 0x00] := by decide
/-- D11: the window and the first pixel. -/
theorem test_fillScreen :
    bytesSent ((fillScreenTrace defaultParams 0xF800).take 30) =
      [0x2A, 0x00, 0x00, 0x00, 0xEF, 0x2B, 0x00, 0x00, 0x01, 0x3F, 0x2C, 0xF8, 0x00] := by decide
/-- E15. -/
theorem test_fillScreen_refused :
    refusal (exec (.fillScreen 0) State.reset) = some .notConstructed := by decide
/-- D15, and the cell it writes. -/
theorem test_drawPixel_D15 :
    (answer (exec (.drawPixel 10 20 0xFFFF) ready)).map (fun t =>
      (bytesSent t.trace, t.ctl.bad, t.ctl.fb)) =
      some ([0x2A, 0x00, 0x0A, 0x00, 0x0A, 0x2B, 0x00, 0x14, 0x00, 0x14, 0x2C, 0xFF, 0xFF], false,
        [(9620, 0xFF), (9621, 0xFF)]) := by decide
/-- D13, before INIT: nothing is emitted and UB is marked. -/
theorem test_drawPixel_D13 :
    (answer (exec (.drawPixel 240 0 0xFFFF) built)).map (fun t => (t.trace, t.ubMarks)) =
      some ([], [.drawBeforeInit]) := by decide
/-- F1. -/
theorem test_writeCommand_F1 :
    emitted (.writeCommand 0x2C) ready =
      some [.set .dc .low, .set .cs .low, .tx 0x2C, .set .cs .high] := by decide
/-- F2. -/
theorem test_writeData_F2 :
    emitted (.writeData 0x55) ready =
      some [.set .dc .high, .set .cs .low, .tx 0x55, .set .cs .high] := by decide
/-- F3. -/
theorem test_writeDataBuf_F3 :
    emitted (.writeDataBuf [0x00, 0xEB, 0x00, 0xEF]) ready =
      some [.set .dc .high, .set .cs .low, .tx 0x00, .tx 0xEB, .tx 0x00, .tx 0xEF,
        .set .cs .high] := by decide
/-- F5. -/
theorem test_writeDataBuf_F5 : refusal (exec (.writeDataBuf []) ready) = some .emptyBuffer := by decide
/-- W3. -/
theorem test_setWindow_W3 :
    (emitted (.setWindow 100 200 139 299) ready).map bytesSent =
      some [0x2A, 0x00, 0x64, 0x00, 0x8B, 0x2B, 0x00, 0xC8, 0x01, 0x2B, 0x2C] := by decide
/-- 44_controller.md R156: the cursor at the window's start. -/
theorem test_setWindow_cursor :
    (answer (exec (.setWindow 235 315 239 319) ready)).map (fun t => (t.ctl.cx, t.ctl.cy)) =
      some (.known 235, .known 315) := by decide
/-- F6. -/
theorem test_pixelStream_F6 :
    emitted (.pixelStream 0xF8 0x00 2) ready =
      some [.set .dc .high, .set .cs .low, .tx 0xF8, .tx 0x00, .tx 0xF8, .tx 0x00,
        .set .cs .high] := by decide
/-- 44_controller.md R157: the cursor at the end of a row goes to the next one. -/
theorem test_pixelStream_wraps :
    (answer (exec (.pixelStream 0x12 0x34 2) (armed 239 315 none))).map (fun t =>
      (t.ctl.cx, t.ctl.cy, t.ctl.fb.cell 239 315, t.ctl.fb.cell 235 316)) =
      some (.known 236, .known 316, .known 0x1234, .known 0x1234) := by decide
/-- 44_controller.md R147's example without its sleep. -/
theorem test_swreset :
    (answer (exec .swreset ready)).map (fun t => (bytesSent t.trace, t.ctl.sleep, t.ctl.quiet)) =
      some ([0x01], .known .asleep, .known 120) := by decide
/-- 44_controller.md R148. -/
theorem test_slpout :
    (answer (exec .slpout { ready with ctl := { initialized with sleep := .known .asleep } })).map
      (fun t => (bytesSent t.trace, t.ctl.sleep, t.ctl.quiet)) =
      some ([0x11], .known .awake, .known 120) := by decide
/-- 44_controller.md R149. -/
theorem test_colmod :
    (answer (exec (.colmod 0x55) { ready with ctl := { initialized with colmod := .unknown } })).map
      (fun t => (bytesSent t.trace, t.ctl.colmod)) = some ([0x3A, 0x55], .known 0x55) := by decide
/-- 44_controller.md R150. -/
theorem test_madctl :
    (answer (exec (.madctl 0x00) { ready with ctl := { initialized with madctl := .unknown } })).map
      (fun t => (bytesSent t.trace, t.ctl.madctl)) = some ([0x36, 0x00], .known 0x00) := by decide
/-- 44_controller.md R151. -/
theorem test_invoff :
    (answer (exec .invoff { ready with ctl := { initialized with inv := .known .on } })).map
      (fun t => (bytesSent t.trace, t.ctl.inv)) = some ([0x20], .known .off) := by decide
/-- 44_controller.md R152. -/
theorem test_invon :
    (answer (exec .invon ready)).map (fun t => (bytesSent t.trace, t.ctl.inv)) =
      some ([0x21], .known .on) := by decide
/-- 44_controller.md R153. -/
theorem test_dispon :
    (answer (exec .dispon { ready with ctl := { initialized with disp := .known .off } })).map
      (fun t => (bytesSent t.trace, t.ctl.disp, t.ctl.quiet)) =
      some ([0x29], .known .on, .known 100) := by decide
/-- 44_controller.md R154. -/
theorem test_caset :
    (answer (exec (.caset 235 239) ready)).map (fun t => (bytesSent t.trace, t.ctl.xs, t.ctl.xe)) =
      some ([0x2A, 0x00, 0xEB, 0x00, 0xEF], .known 235, .known 239) := by decide
/-- 44_controller.md R160: a last column of 240. -/
theorem test_caset_off_panel :
    (answer (exec (.caset 0 240) ready)).map (fun t => t.ctl) = some Ctl.broken := by decide
/-- 44_controller.md R155. -/
theorem test_raset :
    (answer (exec (.raset 315 319) ready)).map (fun t => (bytesSent t.trace, t.ctl.ys, t.ctl.ye)) =
      some ([0x2B, 0x01, 0x3B, 0x01, 0x3F], .known 315, .known 319) := by decide
/-- 44_controller.md R160: a range out of order. -/
theorem test_raset_reversed :
    (answer (exec (.raset 5 4) ready)).map (fun t => t.ctl.bad) = some true := by decide
/-- 44_controller.md R156, R157. -/
theorem test_ramwr :
    (answer (exec (.ramwr [0xABCD]) (armed 239 319 none))).map (fun t =>
      (bytesSent t.trace, t.ctl.fb.cell 235 315, t.ctl.cx)) =
      some ([0x2C, 0xAB, 0xCD], .known 0xABCD, .known 236) := by decide
/-- The next step after a placed word runs it. -/
theorem test_withFetchWord :
    (answer (step (State.reset.withFetchWord 96 0x00000000FFFF0014000A0004))).map (fun t =>
      (t.seq, t.trace.length, t.inbox)) = some (.idle, 31, []) := by decide

/-! ## Witnesses: for every statement with hypotheses, states and operands that meet them

A statement named here is `Obligations.<the test's name>`. A drawing request of one pixel at `(239, 319)` is the
last cell of the panel. -/

theorem test_hyp_DecodeOfEncodeIsTheInstruction :
    defaultCmds.Distinct ∧ (Instr.init 16000000).wf = true ∧ (Instr.writeDataBuf [0]).wf = true ∧
    (Instr.pixelStream 0 0 76800).wf = true := by decide
theorem test_hyp_RequestDecoding_named :
    decodeRequest 0xFF = .error .reservedOpcode ∧ decodeRequest 0x0200 = .error .reservedBits ∧
    decodeRequest 0x800000000000000000000001 = .error .reservedBits ∧
    decodeRequest 0x0101 = .error .reservedBits ∧
    decodeRequest 0x800000000000000000000002 = .error .reservedBits ∧
    decodeRequest 0x0103 = .error .reservedBits ∧
    decodeRequest 0x000000010000000000000004 = .error .reservedBits := by decide
theorem test_hyp_RequestDecoding_bits :
    let q : RequestWord := 0x000001000000000000000201
    q.extractLsb' 0 8 = 1 ∧ q.extractLsb' 8 8 ≠ 0 ∧ (0x05 : RequestWord).extractLsb' 0 8 = 5 ∧
    (0x0200 : RequestWord).extractLsb' 9 7 ≠ 0 ∧ (0x01 : RequestWord).extractLsb' 16 32 = 0 := by decide

/-- An idle machine to which the host presents one thing. -/
def presented (w : Presented) : State := { ready with inbox := [w] }

theorem test_hyp_StepRunsTheDecodedInstruction :
    (presented (.request 0x04)).seq = .idle ∧ decode defaultCmds (.request 0x04) = .ok (.drawPixel 0 0 0) ∧
    decode defaultCmds (.request 0x10) = .error .reservedOpcode ∧
    commandOf defaultCmds 0x2A [1, 2, 3] = none ∧ commandOf defaultCmds 0x11 [] ≠ none := by decide
/-- CASET with three parameters: the byte goes out, the controller waits, the three data bytes are presented next. -/
theorem test_malformed_command :
    (answer (step (presented (.command 0x2A [1, 2, 3])))).map (fun t =>
      (bytesSent t.trace, t.ctl.bad, t.inbox)) =
      some ([0x2A], false, [.micro [0x11, 1], .micro [0x11, 2], .micro [0x11, 3]]) := by decide
/-- 44_controller.md R141: a command byte outside the ten. -/
theorem test_unknown_command :
    (answer (step (presented (.command 0x00 [])))).map (fun t => (bytesSent t.trace, t.ctl)) =
      some ([0x00], Ctl.broken) := by decide

/-- A machine busy with DRAW_PIXEL 0, 0, 0 at event `k`. -/
def busyAt (k : Nat) (hang : Option Nat) : State :=
  { ready with seq := .busy (.drawPixel 0 0 0) k, hang := hang }

theorem test_hyp_SequencerEmitsOneEventAStep :
    (busyAt 0 none).hang = none ∧
    (traceOf defaultParams ready.cfg (.drawPixel 0 0 0)).drop 29 = [.tx 0x00, .set .cs .high] ∧
    (traceOf defaultParams ready.cfg (.drawPixel 0 0 0)).drop 30 = [.set .cs .high] := by decide
/-- The last event's step goes IDLE and emits it. -/
theorem test_step_last_event :
    (answer (step (busyAt 30 none))).map (fun t => (t.seq, t.trace)) =
      some (.idle, [.set .cs .high]) := by decide
theorem test_hyp_EmptyTraceGoesIdleInOneStep :
    traceOf defaultParams ready.cfg (.construct 1 2 3 4 5 true) = [] ∧
    traceOf defaultParams ready.cfg (.drawPixel 240 0 0) = [] := by decide
theorem test_hyp_OneEventStepsAgreeWithExec :
    ready.hang = none ∧ (answer (exec (.drawPixel 0 0 0) ready)).isSome = true := by decide
theorem test_hyp_BusyPortAcceptsNothing :
    (busyAt 0 none).seq ≠ .idle ∧ (answer (step (busyAt 0 none))).isSome = true := by decide
theorem test_hyp_HeldPortHoldsTheBlock :
    (busyAt 30 (some 0)).seq = .busy (.drawPixel 0 0 0) 30 ∧
    30 < (traceOf defaultParams ready.cfg (.drawPixel 0 0 0)).length ∧
    (busyAt 30 (some 0)).hang = some 0 := by decide
theorem test_hyp_HangStopsAnOperationMidTrace :
    let s := { ready with hang := some 30 }
    s.hang = some 30 ∧ 30 < (traceOf s.par s.cfg (.drawPixel 0 0 0)).length ∧
    (answer (exec (.drawPixel 0 0 0) s)).isSome = true := by decide
theorem test_hyp_TraceOnlyGrows :
    (answer (step (presented (.request 0x04)))).isSome = true := by decide
theorem test_hyp_EveryStepKeepsTheInvariant :
    (presented (.request 0x04)).Inv ∧ (answer (step (presented (.request 0x04)))).isSome = true :=
  ⟨⟨by decide, by decide, fun _ => by decide, ⟨trivial, trivial⟩, (by intro h; cases h), trivial, by decide,
    by decide⟩, by decide⟩
/-- The invariant in RAMWR, with the cursor below its window. -/
theorem test_hyp_EveryStepKeepsTheInvariant_in_ramwr : (armed 235 320 none).Inv :=
  ⟨by decide, by decide, fun _ => by decide, window_kept_armed 235 320 none, cursor_kept_armed 235 320 none
    (by decide), trivial, by decide, by decide⟩
/-- The invariant inside INIT, with the reset line low and its pulse still to end. -/
theorem test_hyp_EveryStepKeepsTheInvariant_in_reset :
    let s := { ready with
      seq := .busy (.init 16000000) 7
      ctl := { initialized with rst := .known .low, resetDone := .known false } }
    s.Inv :=
  ⟨by decide, by decide, fun _ => by decide, ⟨trivial, trivial⟩, (by intro h; cases h), by decide, by decide,
    by decide⟩
theorem test_hyp_UbFlag_first_construct :
    let s := { State.reset with inbox := [.request 0x00], ubMarks := [.initTwice] }
    s.seq = .idle ∧ s.constructed = false ∧ s.ub = true ∧
    decode s.par.cmds (.request 0x00) = .ok (.construct 0 0 0 0 0 false) ∧
    (answer (step s)).map State.ub = some false := by decide
theorem test_hyp_UbFlag_cases :
    (answer (step { built with inbox := [.request 0x04] })).map State.ub = some true ∧
    (answer (step { ready with inbox := [.request 0x010001] })).map State.ub = some true ∧
    (answer (step { ready with inbox := [.request 0x04] })).map State.ub = some false ∧
    (answer (step { ready with inbox := [.request 0x00], ubMarks := [.initTwice] })).map State.ub =
      some true := by decide
/-- A step that takes nothing from the host: busy, and idle with nothing presented. -/
theorem test_hyp_UbFlag_nothing_taken :
    (busyAt 30 none).constructed = true ∧ (busyAt 30 none).seq ≠ .idle ∧
    (answer (step (busyAt 30 none))).map State.ub = some false ∧ ready.inbox = [] ∧
    (answer (step { ready with ubMarks := [.initTwice] })).map State.ub = some true := by decide
theorem test_hyp_DriverStateChangesInTwoPlaces :
    (answer (step (presented (.request 0x00)))).map (fun t => t.drv) = some .unconfigured ∧
    (answer (step { built with inbox := [.request 0x010001] })).map (fun t => t.drv) = some .ready ∧
    ready.drv = .ready ∧ built.drv = .unconfigured := by decide
theorem test_hyp_ConfigurationWrittenByConstructAlone :
    (answer (step (presented (.request 0x0100)))).map (fun t => t.cfg) =
      some ⟨0, 0, 0, 0, 0, true⟩ := by decide
/-- A run of two requests that ends, and one whose second word is refused. -/
theorem test_hyp_RunsEnd :
    State.reset.seq = .idle ∧ State.reset.hang = none ∧ State.reset.inbox = [] ∧
    decodeRequest 0x00 = .ok (.construct 0 0 0 0 0 false) ∧
    decodeRequest 0x04 = .ok (.drawPixel 0 0 0) ∧ decodeRequest 0x05 = .error .reservedOpcode ∧
    (answer (core.run 2 (State.reset.load [0x00, 0x04]))).map (fun t =>
      (t.constructed, t.seq, t.inbox)) = some (true, .idle, []) ∧
    refusal (core.run 2 (State.reset.load [0x00, 0x05])) = some .reservedOpcode := by decide
/-- 60_exceptions.md R182: the power-on machine is no ended run. -/
theorem test_reset_not_ended : ¬State.reset.Ended := by decide
/-- The hypotheses of ConstructLoadsAndResets, InitRunsTheNineSteps, FillRectSendsTheClippedRectangle,
FillScreenSendsTheWholePanel, DrawPixelSendsOnePixel and DrawPixelIsAOneByOneFill. -/
theorem test_hyp_idle_and_fresh :
    State.reset.seq = .idle ∧ State.reset.constructed = false ∧ built.Fresh ∧ built.drv = .unconfigured ∧
    ready.Fresh ∧ ready.drv = .ready := by decide
theorem test_hyp_InitDelaysSumTo670 : defaultParams.Ok := by decide
theorem test_hyp_RequestsRefusedByThePort :
    State.reset.seq = .idle ∧ State.reset.constructed = false ∧ (16000000 : BitRate) ≠ 0 := by decide
theorem test_hyp_DrawingCounts :
    (239 : Word16).toNat < 240 ∧ (319 : Word16).toNat < 320 ∧ (1 : Word16) ≠ 0 := by decide
theorem test_hyp_DrawingDependsOnItsOperandsAlone :
    (Instr.drawPixel 239 319 0).isDrawing = true ∧ built.Fresh ∧ ready.Fresh ∧ built.par = ready.par := by
  decide
/-- The hypotheses of OneByteTransactions, DataBufferInOneTransaction, SetWindowProgramsColumnsThenRows,
PixelStreamIsOneTransaction and RamwrArmsTheCursorAndSendsItsPixels. -/
theorem test_hyp_micro_and_commands : ready.seq = .idle ∧ ready.hang = none ∧ (76800 : Nat) ≠ 0 := by
  decide
theorem test_hyp_RequestsSendCommandsOfTheTableAlone :
    (Instr.drawPixel 0 0 0).isRequest = true ∧
    commandBytes .high (traceOf defaultParams ready.cfg (.drawPixel 0 0 0)) = [0x2A, 0x2B, 0x2C] := by
  decide
/-- The hypotheses of SwresetRestoresTheDefaults, SlpoutAndDisponTakeEffect, InversionCommandsTakeEffect,
ColmodAndMadctlTakeTheirParameter, CasetSetsTheColumnRange, RasetSetsTheRowRange and RAMWR's. -/
theorem test_hyp_commands_accepted :
    ready.seq = .idle ∧ ready.hang = none ∧ ready.Premises ∧ ready.ctl.Accepts := by decide
theorem test_hyp_CasetSetsTheColumnRange :
    (0 : Word16).toNat ≤ (239 : Word16).toNat ∧ (239 : Word16).toNat < 240 ∧
    ¬(240 : Word16).toNat < 240 ∧ ¬(2 : Word16).toNat ≤ (1 : Word16).toNat := by decide
theorem test_hyp_RasetSetsTheRowRange :
    (0 : Word16).toNat ≤ (319 : Word16).toNat ∧ (319 : Word16).toNat < 320 ∧
    ¬(320 : Word16).toNat < 320 := by decide
theorem test_hyp_PixelBytesPairAndWalkTheWindow :
    let s := armed 239 319 (some 0x12)
    s.Premises ∧ s.ctl.resetDone = .known true ∧ s.ctl.rst = .known .high ∧ s.ctl.quiet = .known 0 ∧
    s.ctl.cmd = .cmd .ramwr ∧ s.ctl.half = .known (some 0x12) ∧
    (armed 239 319 none).ctl.half = .known none ∧ s.ctl.colmod = .known s.par.colmod16bpp ∧
    s.ctl.madctl = .known s.par.madctlNormal ∧ s.ctl.sleep = .known .awake := by decide
/-- The window and cursor premises, on the last cell, past it, and with the window UNKNOWN. -/
theorem test_hyp_PixelBytesPairAndWalkTheWindow_cursor :
    (armedAt 239 319 (some 0x12)).WindowKept ∧ (armedAt 239 319 (some 0x12)).CursorKept ∧
    (armedAt 235 320 (some 0x12)).CursorKept ∧
    ({ initialized with cmd := .cmd .ramwr }).WindowKept ∧
    ({ initialized with cmd := .cmd .ramwr }).CursorKept :=
  ⟨window_kept_armed 239 319 _, cursor_kept_armed 239 319 _ (by decide), cursor_kept_armed 235 320 _ (by decide),
    ⟨trivial, trivial⟩, fun _ => ⟨trivial, trivial⟩⟩
theorem test_hyp_PixelBytesPairAndWalkTheWindow_edges :
    let s := armed 235 320 (some 0x12)
    s.ctl.ye = .known 319 ∧ (319 : Word16).toNat < 320 ∧
    (answer (exec (.writeData 0x34) s)).map (fun t => t.ctl.bad) = some true ∧
    (answer (exec (.writeData 0x34) { ready with
      ctl := { initialized with cmd := .cmd .ramwr, half := .known (some 0x12) } })).map
      (fun t => t.ctl.bad) = some true ∧
    (answer (exec (.writeData 0x34) (armed 239 319 (some 0x12)))).map (fun t => (t.ctl.cx, t.ctl.cy)) =
      some (.known 235, .known 320) := by decide
theorem test_hyp_BytesWithoutMeaningBreak :
    (∀ c ∈ allCmds, ready.par.cmds.byteOf c ≠ 0x00) ∧ built.ctl.cmd = .unknown ∧
    ({ initialized with cmd := .none }).cmd = .none := by decide
theorem test_hyp_MalformedParametersBreak :
    let o := { initialized with cmd := .cmd .caset, params := .known [0, 0, 0] }
    o.cmd = .cmd .caset ∧ o.params = .known [0, 0, 0] ∧ ([0, 0, 0] : List Byte).length < nparams .caset ∧
    (armedAt 235 315 (some 0)).half ≠ .known none ∧ initialized.cmd = .cmd .dispon ∧
    initialized.params = .known [] ∧ nparams .dispon ≤ ([] : List Byte).length ∧
    ready.par.cmds.Distinct ∧ 240 ≤ (240 : Word16).toNat ∧ 320 ≤ (320 : Word16).toNat := by decide
theorem test_hyp_CommandsNotAcceptedBreak :
    built.seq = .idle ∧ built.hang = none ∧ encode built.par.cmds .swreset = .command 0x01 [] ∧
    ¬built.ctl.Accepts := by decide
theorem test_hyp_ByteTooEarlyBreaks :
    built.ctl.resetDone = .known false ∧ built.ctl.rst ≠ .known .high ∧
    ({ initialized with quiet := .known 1 }).quiet = .known 1 ∧ 0 < 1 := by decide
theorem test_hyp_BadControllerStaysBad :
    let s := { presented (.request 0x04) with ctl := Ctl.broken }
    s.ctl.bad = true ∧ (answer (step s)).isSome = true := by decide
theorem test_hyp_UnselectedByteIsIgnored : initialized.cs ≠ .known defaultParams.csActive := by decide
theorem test_hyp_HardwareResetAndTime :
    initialized.bad = false ∧ initialized.rst ≠ .known .low ∧ initialized.quiet = .known 0 ∧
    defaultParams.obsRstLo ≤ 100 ∧ ¬defaultParams.obsRstLo ≤ 99 := by decide
theorem test_hyp_InitInitializesTheController :
    built.Premises ∧ built.drv = .unconfigured ∧ built.ctl.rst ≠ .known .low ∧
    (16000000 : BitRate) ≠ 0 := by decide
theorem test_hyp_DrawingWritesItsRectangleAlone :
    ready.Premises ∧ ready.drv = .ready ∧ ready.ctl.Initialized ready.par ready.cfg.invert ∧
    ready.ctl.AtRest := by decide
theorem test_hyp_WindowIsCoveredExactly :
    ready.Premises ∧ ready.ctl.Initialized ready.par ready.cfg.invert ∧ ready.ctl.AtRest ∧
    WindowOk 0 0 239 319 ∧ WindowOk 238 319 239 319 ∧
    ([1, 2] : List Word16).length =
      ((239 : Word16).toNat - (238 : Word16).toNat + 1) * ((319 : Word16).toNat - (319 : Word16).toNat + 1) := by
  decide
/-- Two pixels in the window of two cells, each in its own; a third leaves the controller `bad`. -/
theorem test_window_of_two :
    let t := (answer (exec (.setWindow 238 319 239 319) ready)).getD ready
    let u := (answer (exec (.writeDataBuf [0, 1, 0, 2]) t)).getD ready
    u.ctl.fb.cell 238 319 = .known 1 ∧ u.ctl.fb.cell 239 319 = .known 2 ∧ u.ctl.cy = .known 320 ∧
    (answer (exec (.writeData 3) ((answer (exec (.writeData 0) u)).getD ready))).map (fun v => v.ctl.bad) =
      some true := by decide
/-- A cell that is known, on a panel whose `VISIBLE` is right for the configuration, and one off the panel. -/
theorem test_hyp_PanelShowsTheColour :
    let s := { ready with ctl := { initialized with fb := Memory.fbWrite [] 239 319 0xF800 } }
    s.Premises ∧ s.ctl.Initialized s.par s.cfg.invert ∧ s.ctl.fb.cell 239 319 = .known 0xF800 ∧
    s.panelShowsOn (fun _ v => rgb565 v) 239 319 = .known ⟨31, 0, 0⟩ ∧
    s.panelShowsOn (fun _ v => rgb565 v) 240 318 = .unknown := by decide
theorem test_hyp_PanelShowsTheColour_right : RightInversion (fun _ v => rgb565 v) false := fun _ => rfl
theorem test_hyp_FormsWithoutPixelsKeepTheFrameMemory :
    ready.Premises ∧ Instr.invon.sendsNoPixel = true ∧
    (answer (exec .invon ready)).map (fun t => (t.ub, t.ctl.bad)) = some (false, false) ∧
    built.Premises ∧ (Instr.init 16000000).sendsNoPixel = true ∧
    (answer (exec (.init 16000000) built)).map (fun t => (t.ub, t.ctl.bad)) = some (false, false) := by decide
/-- 44_controller.md R144: a second INIT and a drawing request after a new CONSTRUCT (95_test_vectors.md Program 5)
mark UB and do not make the controller `bad`, so `ub = false` is a premise of its own. -/
theorem test_ub_is_not_bad :
    (answer (exec (.init 16000000) ready)).map (fun t => (t.ub, t.ctl.bad)) = some (true, false) ∧
    (answer (exec (.drawPixel 5 6 0xFFFF) { ready with drv := .unconfigured })).map (fun t =>
      (t.ub, t.ctl.bad)) = some (true, false) := by decide
theorem test_hyp_DataTransactionsStoreAtTheCursorAlone :
    (armed 239 319 (some 0x12)).Premises ∧ (armed 239 319 none).Premises ∧
    (answer (exec (.writeData 0x34) (armed 239 319 (some 0x12)))).map (fun t => (t.ub, t.ctl.bad)) =
      some (false, false) ∧
    (answer (exec (.writeDataBuf [1, 2]) (armed 239 319 none))).map (fun t => (t.ub, t.ctl.bad)) =
      some (false, false) ∧
    (answer (exec (.pixelStream 1 2 1) (armed 239 319 none))).map (fun t => (t.ub, t.ctl.bad)) =
      some (false, false) ∧
    OutsideCells ((armedAt 239 319 (some 0x12)).storedCells 1) 153597 := by decide
theorem test_hyp_PixelsRunRowByRow :
    let o := { initialized with xs := .known 235, xe := .known 239, ys := .known 315, ye := .known 319 }
    let s := { ready with ctl := o }
    s.Premises ∧ o.Initialized s.par s.cfg.invert ∧ o.AtRest ∧ WindowOk 235 315 239 319 ∧
    ([1, 2, 3, 4, 5, 6] : List Word16).length ≤
      ((239 : Word16).toNat - (235 : Word16).toNat + 1) * ((319 : Word16).toNat - (315 : Word16).toNat + 1) ∧
    (answer (exec (.ramwr [1, 2, 3, 4, 5, 6]) s)).map (fun t =>
      (t.ctl.fb.cell 235 315, t.ctl.fb.cell 239 315, t.ctl.fb.cell 235 316)) =
      some (.known 1, .known 5, .known 6) := by decide
theorem test_hyp_RamwrStoresFromTheWindowStart :
    (armed 239 319 none).Premises ∧
    (answer (exec (.ramwr [0xABCD]) (armed 239 319 none))).map (fun t => (t.ub, t.ctl.bad)) =
      some (false, false) ∧
    OutsideCells ((armedAt 235 315 none).storedCells 2) 0 := by decide
theorem test_hyp_DrawingStoresInItsRectangleAlone :
    ready.Premises ∧
    (answer (exec (.drawPixel 239 319 1) ready)).map (fun t => (t.ub, t.ctl.bad)) =
      some (false, false) ∧
    clipRect 239 319 1 1 = some ⟨239, 319, 1, 1⟩ ∧ cellAddr 239 319 = 153598 := by decide

end Sys2Proof.Tests
end

section
/-! PROOF. The controller's clauses of the invariant: every event keeps them. -/

namespace Sys2Proof.Machine

/-- The clauses of `State.Inv` about a controller that is not `bad`, its frame memory apart. -/
structure Ctl.Sound (o : Ctl) : Prop where
  resetDone : o.resetDone ≠ .unknown
  lowMs : o.lowMs ≠ .unknown
  quiet : o.quiet ≠ .unknown
  params : o.params ≠ .unknown
  half : o.half ≠ .unknown
  window : o.WindowKept
  cursor : o.CursorKept

/-- The same clauses with a failed premise admitted. -/
def Ctl.Kept (o : Ctl) : Prop := o = Ctl.broken ∨ (o.bad = false ∧ o.Sound)

/-- `Ctl.Kept` is the controller's part of `State.Inv`. -/
theorem Ctl.kept_iff (o : Ctl) :
    o.Kept ↔ o.BadIsBlank ∧ o.CountersKnown ∧ o.WindowKept ∧ o.CursorKept := by
  constructor
  · rintro (rfl | ⟨hb, hs⟩)
    · exact ⟨fun _ => rfl, fun hb => absurd hb (by simp), ⟨trivial, trivial⟩,
        fun hc => absurd hc (by simp [Ctl.broken])⟩
    · exact ⟨fun h => by simp [hb] at h, fun _ => ⟨hs.resetDone, hs.lowMs, hs.quiet, hs.params, hs.half⟩,
        hs.window, hs.cursor⟩
  · rintro ⟨hblank, hcount, hw, hc⟩
    cases hb : o.bad with
    | true => exact .inl (hblank hb)
    | false =>
      obtain ⟨h1, h2, h3, h4, h5⟩ := hcount hb
      exact .inr ⟨hb, h1, h2, h3, h4, h5, hw, hc⟩

theorem Ctl.kept_broken : Ctl.broken.Kept := .inl rfl

/-- A known value stays known under a function. -/
theorem Known.map_ne_unknown {α β : Type} {f : α → β} {v : Known α} (h : v ≠ .unknown) :
    v.map f ≠ .unknown := by
  cases v with
  | unknown => exact absurd rfl h
  | known v => simp [Known.map]

/-- With another command current than RAMWR there is nothing to say of the cursor. -/
theorem Ctl.cursorKept_of_cmd_ne {o : Ctl} (h : o.cmd ≠ .cmd .ramwr) : o.CursorKept :=
  fun hc => absurd hc h

theorem Ctl.sound_resetDefaults {o : Ctl} (h : o.Sound) (quiet : Nat) : (o.resetDefaults quiet).Sound where
  resetDone := by simp [Ctl.resetDefaults]
  lowMs := h.lowMs
  quiet := by simp [Ctl.resetDefaults]
  params := by simp [Ctl.resetDefaults]
  half := by simp [Ctl.resetDefaults]
  window := ⟨trivial, trivial⟩
  cursor := Ctl.cursorKept_of_cmd_ne (by simp [Ctl.resetDefaults])

theorem Ctl.kept_setRst (p : Params) (v : Level) {o : Ctl} (hb : o.bad = false) (h : o.Sound) :
    (o.setRst p v).Kept := by
  cases v with
  | low => exact .inr ⟨hb, { h with resetDone := by simp [Ctl.setRst], lowMs := by simp [Ctl.setRst] }⟩
  | high =>
    simp only [Ctl.setRst]
    split
    · split
      · split
        · exact .inr ⟨hb, { Ctl.sound_resetDefaults h p.obsRstRec with }⟩
        · exact Ctl.kept_broken
      · exact Ctl.kept_broken
    · exact .inr ⟨hb, { h with }⟩

theorem Ctl.sound_sleepMs (t : Nat) {o : Ctl} (h : o.Sound) : (o.sleepMs t).Sound :=
  { h with
    quiet := Known.map_ne_unknown h.quiet
    lowMs := by
      unfold Ctl.sleepMs
      split
      · exact Known.map_ne_unknown h.lowMs
      · exact h.lowMs }

/-- A window's ranges, each UNKNOWN or known, ordered and on the panel (44_controller.md R154, R155). -/
theorem Ctl.windowKept_iff (o : Ctl) : o.WindowKept ↔
    ((∃ s e, o.xs = .known s ∧ o.xe = .known e ∧ s.toNat ≤ e.toNat ∧ e.toNat < panelWidth) ∨
      (o.xs = .unknown ∧ o.xe = .unknown)) ∧
    ((∃ s e, o.ys = .known s ∧ o.ye = .known e ∧ s.toNat ≤ e.toNat ∧ e.toNat < panelHeight) ∨
      (o.ys = .unknown ∧ o.ye = .unknown)) := by
  unfold Ctl.WindowKept
  refine and_congr ?_ ?_
  · cases o.xs <;> cases o.xe <;> simp
  · cases o.ys <;> cases o.ye <;> simp

/-- RAMWR puts the cursor at the window's start, which is by the window (44_controller.md R156). -/
theorem Ctl.cursorKept_ramwr {o : Ctl} (h : o.WindowKept) :
    ({ o with cx := o.xs.map BitVec.toNat, cy := o.ys.map BitVec.toNat, half := .known none } : Ctl).CursorKept := by
  obtain ⟨hx, hy⟩ := (Ctl.windowKept_iff o).1 h
  refine fun _ => ⟨?_, ?_⟩
  · rcases hx with ⟨s, e, hs, he, hle, _⟩ | ⟨hs, he⟩
    · simpa [hs, he, Known.map] using hle
    · simp [hs, he, Known.map]
  · rcases hy with ⟨s, e, hs, he, hle, _⟩ | ⟨hs, he⟩
    · simpa [hs, he, Known.map] using Nat.le_succ_of_le hle
    · simp [hs, he, Known.map]

/-- A command byte's effect, the command already noted as current. -/
theorem Ctl.sound_runCommand (p : Params) (c : Cmd) {o : Ctl} (h : o.Sound) :
    (Ctl.runCommand p c { o with cmd := .cmd c, params := .known [] }).Sound := by
  have hp : (Known.known [] : Known (List Byte)) ≠ .unknown := by simp
  have other (hc : c ≠ .ramwr) : ({ o with cmd := .cmd c, params := .known [] } : Ctl).Sound :=
    { h with params := hp, cursor := Ctl.cursorKept_of_cmd_ne (by simpa using hc) }
  cases c with
  | swreset => exact Ctl.sound_resetDefaults (other (by simp)) p.obsSwReset
  | slpout => exact { other (by simp) with quiet := by simp [Ctl.runCommand] }
  | dispon => exact { other (by simp) with quiet := by simp [Ctl.runCommand] }
  | invoff => exact { other (by simp) with }
  | invon => exact { other (by simp) with }
  | ramwr =>
    exact { h with
      params := hp
      half := by simp [Ctl.runCommand]
      cursor := Ctl.cursorKept_ramwr (o := { o with cmd := .cmd .ramwr, params := .known [] }) h.window }
  | colmod => exact other (by simp)
  | madctl => exact other (by simp)
  | caset => exact other (by simp)
  | raset => exact other (by simp)

theorem Ctl.kept_commandByte (p : Params) (b : Byte) {o : Ctl} (hb : o.bad = false) (h : o.Sound) :
    (o.commandByte p b).Kept := by
  unfold Ctl.commandByte
  split
  · split
    · rename_i c _
      exact .inr ⟨(Ctl.runCommand_fb p c _).2.trans hb, Ctl.sound_runCommand p c h⟩
    · exact Ctl.kept_broken
  · exact Ctl.kept_broken

/-- A completed parameter list of another command than RAMWR sets one register, or a whole range that is
ordered and on the panel. -/
theorem Ctl.kept_runParams (c : Cmd) (ps : List Byte) {o : Ctl} (hb : o.bad = false) (h : o.Sound)
    (hc : o.cmd ≠ .cmd .ramwr) : (o.runParams c ps).Kept := by
  unfold Ctl.runParams
  split
  · exact .inr ⟨hb, { h with }⟩
  · exact .inr ⟨hb, { h with }⟩
  · split
    · rename_i hr
      exact .inr ⟨hb, { h with window := ⟨hr, h.window.2⟩, cursor := Ctl.cursorKept_of_cmd_ne hc }⟩
    · exact Ctl.kept_broken
  · split
    · rename_i hr
      exact .inr ⟨hb, { h with window := ⟨h.window.1, hr⟩, cursor := Ctl.cursorKept_of_cmd_ne hc }⟩
    · exact Ctl.kept_broken
  · exact .inr ⟨hb, h⟩

/-- The step of the cursor keeps it in the window's columns and at most one row below (44_controller.md R157). -/
theorem Ctl.kept_pixel (p : Params) (v : Word16) {o : Ctl} (hb : o.bad = false) (h : o.Sound) :
    (o.pixel p v).Kept := by
  unfold Ctl.pixel
  split
  · split
    · rename_i xs xe ys ye cx cy hxs hxe hys hye hcx hcy
      split
      · exact Ctl.kept_broken
      · rename_i hrow
        split
        · exact Ctl.kept_broken
        · have hwin := h.window
          have hcur := h.cursor
          simp only [Ctl.WindowKept, Ctl.CursorKept, hxs, hxe, hys, hye, hcx, hcy] at hwin hcur
          split
          all_goals
            refine .inr ⟨hb, { h with half := by simp, cursor := fun hr => ?_ }⟩
            have := hcur hr
            simp only [hxs, hxe, hys, hye, hcy]
            omega
    · exact Ctl.kept_broken
  · exact Ctl.kept_broken

theorem Ctl.kept_pixelByte (p : Params) (b : Byte) {o : Ctl} (hb : o.bad = false) (h : o.Sound) :
    (o.pixelByte p b).Kept := by
  unfold Ctl.pixelByte
  split
  · exact .inr ⟨hb, { h with half := by simp }⟩
  · exact Ctl.kept_pixel p _ hb { h with half := by simp }
  · exact Ctl.kept_broken

theorem Ctl.kept_dataByte (p : Params) (b : Byte) {o : Ctl} (hb : o.bad = false) (h : o.Sound) :
    (o.dataByte p b).Kept := by
  unfold Ctl.dataByte
  split
  · exact Ctl.kept_pixelByte p b hb h
  · rename_i c hne hcmd
    split
    · rename_i ps _
      split
      · have hs : ({ o with params := .known (ps ++ [b]) } : Ctl).Sound := { h with params := by simp }
        simp only
        split
        · exact Ctl.kept_runParams c _ hb hs (by simpa [hcmd] using hne)
        · exact .inr ⟨hb, hs⟩
      · exact Ctl.kept_broken
    · exact Ctl.kept_broken
  · exact Ctl.kept_broken
  · exact Ctl.kept_broken

theorem Ctl.kept_receive (p : Params) (b : Byte) {o : Ctl} (hb : o.bad = false) (h : o.Sound) :
    (o.receive p b).Kept := by
  unfold Ctl.receive
  split
  · split
    · split
      · exact Ctl.kept_commandByte p b hb h
      · exact Ctl.kept_dataByte p b hb h
      · exact Ctl.kept_broken
    · exact Ctl.kept_broken
  · exact .inr ⟨hb, h⟩

theorem Ctl.kept_event (p : Params) (e : Event) {o : Ctl} (h : o.Kept) : (o.event p e).Kept := by
  rcases h with rfl | ⟨hb, hs⟩
  · rw [Ctl.event_of_bad p e rfl]
    exact Ctl.kept_broken
  · unfold Ctl.event
    rw [if_neg (by simp [hb])]
    split
    · exact .inr ⟨hb, hs⟩
    · exact .inr ⟨hb, hs⟩
    · exact .inr ⟨hb, { hs with }⟩
    · exact .inr ⟨hb, { hs with }⟩
    · exact Ctl.kept_setRst p _ hb hs
    · exact .inr ⟨hb, Ctl.sound_sleepMs _ hs⟩
    · exact Ctl.kept_receive p _ hb hs

theorem Ctl.kept_run (p : Params) (es : List Event) {o : Ctl} (h : o.Kept) : (o.run p es).Kept := by
  induction es generalizing o with
  | nil => exact h
  | cons e es ih => exact ih (Ctl.kept_event p e h)

end Sys2Proof.Machine
end


section
/-! PROOF. What every trace is made of, and the lines it leaves released. -/

namespace Sys2Proof.Machine

/-- The pieces the block's traces are made of: transactions, sleeps, the configuration of bus and lines, and
the reset pulse, which ends high. -/
inductive Composed (p : Params) : List Event → Prop where
  | nil : Composed p []
  | append {es fs : List Event} : Composed p es → Composed p fs → Composed p (es ++ fs)
  | transaction (mode : Level) (bytes : List Byte) : Composed p (txn p mode bytes)
  | sleep (ms : Nat) : Composed p [.sleep ms]
  | busCfg (r : BitRate) (sck mosi : LineId) : Composed p [.busCfg r sck mosi]
  | outCfg (l : Line) : Composed p [.outCfg l]
  | resetPulse : Composed p (resetPulseTrace p)

theorem composed_casetTrace (p : Params) (x0 x1 : Word16) : Composed p (casetTrace p x0 x1) :=
  .append (.transaction ..) (.transaction ..)

theorem composed_rasetTrace (p : Params) (y0 y1 : Word16) : Composed p (rasetTrace p y0 y1) :=
  .append (.transaction ..) (.transaction ..)

theorem composed_setWindowTrace (p : Params) (x0 y0 x1 y1 : Word16) :
    Composed p (setWindowTrace p x0 y0 x1 y1) :=
  .append (.append (composed_casetTrace ..) (composed_rasetTrace ..)) (.transaction ..)

theorem composed_oneParamTrace (p : Params) (code b : Byte) : Composed p (oneParamTrace p code b) :=
  .append (.transaction ..) (.transaction ..)

theorem composed_ramwrTrace (p : Params) (px : List Word16) : Composed p (ramwrTrace p px) := by
  refine .append (.transaction ..) ?_
  split
  · exact .nil
  · exact .transaction ..

theorem composed_initTrace (p : Params) (c : Cfg) (r : BitRate) : Composed p (initTrace p c r) := by
  have hcfg : Composed p [.busCfg r c.sckId c.mosiId, .outCfg .cs, .outCfg .dc, .outCfg .rst] :=
    .append (.busCfg ..) (.append (.outCfg .cs) (.append (.outCfg .dc) (.outCfg .rst)))
  have hreset := hcfg.append .resetPulse
  have hsw := (hreset.append (.transaction .low [p.cmds.swreset])).append (.sleep p.tSwReset)
  have hslp := (hsw.append (.transaction .low [p.cmds.slpout])).append (.sleep p.tSlpOut)
  have hregs := (hslp.append (composed_oneParamTrace p p.cmds.colmod p.colmod16bpp)).append
    (composed_oneParamTrace p p.cmds.madctl p.madctlNormal)
  exact ((hregs.append (.transaction ..)).append (.transaction ..)).append (.sleep _)

theorem composed_fillRectTrace (p : Params) (x y w h color : Word16) :
    Composed p (fillRectTrace p x y w h color) := by
  unfold fillRectTrace
  split
  · exact .nil
  · exact .append (composed_setWindowTrace ..) (.transaction ..)

theorem composed_fillScreenTrace (p : Params) (color : Word16) : Composed p (fillScreenTrace p color) :=
  composed_fillRectTrace p 0 0 _ _ color

theorem composed_drawPixelTrace (p : Params) (x y color : Word16) :
    Composed p (drawPixelTrace p x y color) := by
  unfold drawPixelTrace
  split
  · exact .append (composed_setWindowTrace ..) (.transaction ..)
  · exact .nil

/-- Every operation's trace is made of the pieces (10_state.md R26). -/
theorem composed_traceOf (p : Params) (c : Cfg) (i : Instr) : Composed p (traceOf p c i) := by
  cases i with
  | construct => exact .nil
  | init r => exact composed_initTrace p c r
  | fillScreen color => exact composed_fillScreenTrace p color
  | fillRect x y w h color => exact composed_fillRectTrace ..
  | drawPixel x y color => exact composed_drawPixelTrace ..
  | setWindow x0 y0 x1 y1 => exact composed_setWindowTrace ..
  | colmod b => exact composed_oneParamTrace ..
  | madctl b => exact composed_oneParamTrace ..
  | caset x0 x1 => exact composed_casetTrace ..
  | raset y0 y1 => exact composed_rasetTrace ..
  | ramwr px => exact composed_ramwrTrace ..
  | writeCommand | writeData | writeDataBuf | pixelStream | swreset | slpout | invoff | invon | dispon =>
    exact .transaction ..

theorem lastLevel_append (l : Line) (es fs : List Event) (v : LineState) :
    lastLevel l (es ++ fs) v = lastLevel l fs (es.foldl (fun v e => v.after l e) v) := by
  simp [lastLevel, List.foldl_append]

/-- Chip-select is not active after a trace if it was not before (10_state.md R44). -/
theorem Composed.select_released {p : Params} {es : List Event} (h : Composed p es) {v : LineState}
    (hv : v.level ≠ .known p.csActive) : lastLevel .cs es v ≠ .known p.csActive := by
  induction h generalizing v with
  | nil => exact hv
  | append _ _ ih₁ ih₂ =>
    rw [lastLevel_append]
    exact ih₂ (ih₁ hv)
  | transaction mode bytes => simp [txn, lastLevel, LineState.after, List.foldl_append]
  | sleep | busCfg => exact hv
  | outCfg l =>
    cases l with
    | cs => simp [lastLevel, LineState.after]
    | dc | rst => exact hv
  | resetPulse => exact hv

theorem lastRst_append (es fs : List Event) (v : Known Level) :
    lastRst (es ++ fs) v = lastRst fs (lastRst es v) := by
  fun_induction lastRst es v <;> simp_all [lastRst]

theorem lastRst_tx (bytes : List Byte) (v : Known Level) : lastRst (bytes.map .tx) v = v := by
  induction bytes with
  | nil => rfl
  | cons b bs ih => exact ih

/-- A transaction does not drive the reset line. -/
theorem lastRst_txn (p : Params) (mode : Level) (bytes : List Byte) (v : Known Level) :
    lastRst (txn p mode bytes) v = v := by
  simp [txn, lastRst, lastRst_append, lastRst_tx]

/-- The reset line is not low after a trace if it was not before (40_init.md R92). -/
theorem Composed.reset_released {p : Params} {es : List Event} (h : Composed p es) {v : Known Level}
    (hv : v ≠ .known .low) : lastRst es v ≠ .known .low := by
  induction h generalizing v with
  | nil | sleep | busCfg | outCfg => exact hv
  | append _ _ ih₁ ih₂ =>
    rw [lastRst_append]
    exact ih₂ (ih₁ hv)
  | transaction mode bytes => rwa [lastRst_txn]
  | resetPulse => simp [resetPulseTrace, lastRst]

/-- A trace that does not leave the reset line low from one level does not from UNKNOWN. -/
theorem lastRst_unknown {es : List Event} {v : Known Level} (h : lastRst es v ≠ .known .low) :
    lastRst es .unknown ≠ .known .low := by
  induction es generalizing v with
  | nil => simp [lastRst]
  | cons e es ih =>
    cases e with
    | set l lv =>
      cases l with
      | rst => exact h
      | cs | dc => exact ih (v := v) h
    | busCfg | outCfg | tx | sleep => exact ih (v := v) h

end Sys2Proof.Machine
end


section
/-! PROOF. What a step can do, in one form for the busy and the idle machine; the invariant. -/

namespace Sys2Proof.Machine

@[simp] theorem emitAll_par (es : List Event) (s : State) : (emitAll es s).par = s.par := by
  simp [emitAll_fields]
@[simp] theorem emitAll_constructed (es : List Event) (s : State) :
    (emitAll es s).constructed = s.constructed := by simp [emitAll_fields]
@[simp] theorem emitAll_cfg (es : List Event) (s : State) : (emitAll es s).cfg = s.cfg := by
  simp [emitAll_fields]
@[simp] theorem emitAll_drv (es : List Event) (s : State) : (emitAll es s).drv = s.drv := by
  simp [emitAll_fields]
@[simp] theorem emitAll_ubMarks (es : List Event) (s : State) : (emitAll es s).ubMarks = s.ubMarks := by
  simp [emitAll_fields]
@[simp] theorem emitAll_inbox (es : List Event) (s : State) : (emitAll es s).inbox = s.inbox := by
  simp [emitAll_fields]
@[simp] theorem emitAll_ctl (es : List Event) (s : State) :
    (emitAll es s).ctl = s.ctl.run s.par es := by simp [emitAll_fields]
@[simp] theorem emitAll_cs_level (es : List Event) (s : State) :
    (emitAll es s).cs.level = lastLevel .cs es s.cs := by simp [emitAll_fields, lastLevel]

/-- Another place of the sequencer changes nothing of what events do. -/
theorem emitAll_with_seq (es : List Event) (q : Seq) (s : State) :
    emitAll es { s with seq := q } = { emitAll es s with seq := q } := by
  induction es generalizing s with
  | nil => rfl
  | cons e es ih => exact ih (emit e s)

/-- The final update overwrites the sequencer's place. -/
theorem finish_with_seq (i : Instr) (q : Seq) (s : State) : finish i { s with seq := q } = finish i s := by
  cases i <;> rfl

/-- Everything the final update can be (10_state.md R26). -/
theorem finish_cases (i : Instr) (s : State) :
    (∃ cs dc rst sck mosi v, i = .construct cs dc rst sck mosi v ∧
      finish i s = s.construct cs dc rst sck mosi v) ∨
    (∃ r, i = .init r ∧ finish i s = { s with drv := .ready, seq := .idle }) ∨
    ((∀ cs dc rst sck mosi v, i ≠ .construct cs dc rst sck mosi v) ∧ (∀ r, i ≠ .init r) ∧
      finish i s = { s with seq := .idle }) := by
  cases i with
  | construct cs dc rst sck mosi v => exact .inl ⟨cs, dc, rst, sck, mosi, v, rfl, rfl⟩
  | init r => exact .inr (.inl ⟨r, rfl, rfl⟩)
  | _ => exact .inr (.inr ⟨by simp, by simp, rfl⟩)

/-- Everything a machine busy with `i` can do without taking anything from the host: perform all the events
it has left and finish, or some of them and stop at another one. -/
def Advances (i : Instr) (u t : State) : Prop :=
  t = finish i (emitAll u.remaining u) ∨
    ∃ es n, n < (traceOf u.par u.cfg i).length ∧ es ++ (traceOf u.par u.cfg i).drop n = u.remaining ∧
      t = { emitAll es u with seq := .busy i n }

theorem State.remaining_of_busy {s : State} {i : Instr} {k : Nat} (h : s.seq = .busy i k) :
    s.remaining = (traceOf s.par s.cfg i).drop k := by
  simp [State.remaining, h]

theorem State.remaining_of_idle {s : State} (h : s.seq = .idle) : s.remaining = [] := by
  simp [State.remaining, h]

@[simp] theorem accepted_remaining (i : Instr) (s : State) :
    (accepted i s).remaining = traceOf s.par s.cfg i := by
  simp [State.remaining]

/-- A sequencer's step waits or advances. -/
theorem tick_advances {s : State} {i : Instr} {k : Nat} (h : s.seq = .busy i k) :
    tick s = s ∨ Advances i s (tick s) := by
  have hrem := State.remaining_of_busy h
  rcases tick_busy h with ⟨hd, ht⟩ | ⟨_, _, ht⟩ | ⟨e, hd, _, ht⟩ | ⟨e, f, rest, hd, _, ht⟩
  · exact .inr (.inl (by rw [ht, hrem, hd]; rfl))
  · exact .inl ht
  · exact .inr (.inl (by rw [ht, hrem, hd]; rfl))
  · have hnext : (traceOf s.par s.cfg i).drop (k + 1) = f :: rest := by
      rw [← List.drop_drop, hd]; rfl
    refine .inr (.inr ⟨[e], k + 1, ?_, ?_, ht⟩)
    · have hlen := congrArg List.length hnext
      rw [List.length_drop, List.length_cons] at hlen
      omega
    · rw [hrem, hd, hnext]; rfl

theorem emitAll_accepted (es : List Event) (i : Instr) (s : State) :
    emitAll es (accepted i s) = { emitAll es (entryMarks i s) with seq := .busy i 0 } :=
  emitAll_with_seq es _ _

/-- An operation performed is one accepted and advanced (10_state.md R26). -/
theorem perform_advances (i : Instr) (s : State) : Advances i (accepted i s) (perform i s) := by
  unfold Advances perform
  rcases drain_cases i (traceOf s.par s.cfg i) 0 (entryMarks i s) with h | ⟨n, hn, h⟩
  · refine .inl ?_
    rw [h, accepted_remaining, emitAll_accepted, finish_with_seq i (.busy i 0)]
  · refine .inr ⟨(traceOf s.par s.cfg i).take n, n, by simpa using hn, by simp, ?_⟩
    rw [h, emitAll_accepted, Nat.zero_add]

/-- Everything a step can do when it answers a next state: nothing; or the operation it performs advances,
from where the sequencer is or from its acceptance. -/
theorem step_cases {s t : State} (h : step s = .next t) :
    t = s ∨
    (∃ i k, s.seq = .busy i k ∧ Advances i s t) ∨
    ∃ w rest i, s.seq = .idle ∧ s.inbox = w :: rest ∧ decode s.par.cmds w = .ok i ∧
      Advances i (accepted i { s with inbox := leftover s.par.cmds w ++ rest }) t := by
  rcases step_next h with ⟨⟨i, k, hq⟩, rfl⟩ | ⟨_, _, rfl⟩ | ⟨w, rest, i, hq, hin, hd, he⟩
  · exact (tick_advances hq).imp id fun ha => .inl ⟨i, k, hq, ha⟩
  · exact .inl rfl
  · refine .inr (.inr ⟨w, rest, i, hq, hin, hd, ?_⟩)
    rw [(exec_next he).2]
    exact perform_advances i _

/-- An event that broke the controller or left its view of the three lines as it was. -/
def Ctl.LinesKept (o o' : Ctl) : Prop := o' = Ctl.broken ∨ (o'.cs = o.cs ∧ o'.dc = o.dc ∧ o'.rst = o.rst)

theorem Ctl.linesKept_broken (o : Ctl) : o.LinesKept Ctl.broken := .inl rfl

theorem Ctl.linesKept_commandByte (p : Params) (b : Byte) (o : Ctl) : o.LinesKept (o.commandByte p b) := by
  unfold Ctl.commandByte
  split
  · split
    · rename_i c _
      cases c <;> exact .inr ⟨rfl, rfl, rfl⟩
    · exact o.linesKept_broken
  · exact o.linesKept_broken

theorem Ctl.linesKept_runParams (c : Cmd) (ps : List Byte) (o : Ctl) : o.LinesKept (o.runParams c ps) := by
  unfold Ctl.runParams
  split
  · exact .inr ⟨rfl, rfl, rfl⟩
  · exact .inr ⟨rfl, rfl, rfl⟩
  · split
    · exact .inr ⟨rfl, rfl, rfl⟩
    · exact o.linesKept_broken
  · split
    · exact .inr ⟨rfl, rfl, rfl⟩
    · exact o.linesKept_broken
  · exact .inr ⟨rfl, rfl, rfl⟩

theorem Ctl.linesKept_pixel (p : Params) (v : Word16) (o : Ctl) : o.LinesKept (o.pixel p v) := by
  unfold Ctl.pixel
  split
  · split
    · split
      · exact o.linesKept_broken
      · split
        · exact o.linesKept_broken
        · simp only
          split <;> exact .inr ⟨rfl, rfl, rfl⟩
    · exact o.linesKept_broken
  · exact o.linesKept_broken

theorem Ctl.linesKept_dataByte (p : Params) (b : Byte) (o : Ctl) : o.LinesKept (o.dataByte p b) := by
  unfold Ctl.dataByte
  split
  · unfold Ctl.pixelByte
    split
    · exact .inr ⟨rfl, rfl, rfl⟩
    · exact Ctl.linesKept_pixel p _ { o with half := .known none }
    · exact o.linesKept_broken
  · split
    · rename_i ps _
      split
      · simp only
        split
        · exact Ctl.linesKept_runParams _ _ { o with params := .known (ps ++ [b]) }
        · exact .inr ⟨rfl, rfl, rfl⟩
      · exact o.linesKept_broken
    · exact o.linesKept_broken
  · exact o.linesKept_broken
  · exact o.linesKept_broken

/-- A byte changes no line (44_controller.md R143). -/
theorem Ctl.linesKept_receive (p : Params) (b : Byte) (o : Ctl) : o.LinesKept (o.receive p b) := by
  unfold Ctl.receive
  split
  · split
    · split
      · exact o.linesKept_commandByte p b
      · exact o.linesKept_dataByte p b
      · exact o.linesKept_broken
    · exact o.linesKept_broken
  · exact .inr ⟨rfl, rfl, rfl⟩

theorem Ctl.setRst_rst (p : Params) (v : Level) (o : Ctl) :
    o.setRst p v = Ctl.broken ∨ (o.setRst p v).rst = .known v := by
  cases v with
  | low => exact .inr rfl
  | high =>
    simp only [Ctl.setRst]
    split
    · split
      · split
        · exact .inr rfl
        · exact .inl rfl
      · exact .inl rfl
    · exact .inr rfl

/-- The controller's view of the reset line after one event is the trace's, or UNKNOWN with a failed premise. -/
theorem Ctl.event_rst (p : Params) (e : Event) {o : Ctl} (h : o.Kept) :
    (o.event p e).rst = .unknown ∨ (o.event p e).rst = lastRst [e] o.rst := by
  have blank {o' : Ctl} (h : o' = Ctl.broken) : o'.rst = .unknown := by rw [h]; rfl
  rcases h with rfl | ⟨hb, -⟩
  · exact .inl (blank (Ctl.event_of_bad p e rfl))
  · unfold Ctl.event
    rw [if_neg (by simp [hb])]
    split
    · exact .inr rfl
    · exact .inr rfl
    · exact .inr rfl
    · exact .inr rfl
    · exact (Ctl.setRst_rst p _ o).imp blank id
    · exact .inr rfl
    · exact (Ctl.linesKept_receive p _ o).imp blank fun hl => hl.2.2

/-- What is left of a trace, seen from where its first part left the controller, does not leave the reset line
low if the whole trace does not. -/
theorem Ctl.run_reset_released (p : Params) (es fs : List Event) {o : Ctl} (h : o.Kept)
    (hr : lastRst (es ++ fs) o.rst ≠ .known .low) : lastRst fs (o.run p es).rst ≠ .known .low := by
  induction es generalizing o with
  | nil => exact hr
  | cons e es ih =>
    have hstep : lastRst (es ++ fs) (lastRst [e] o.rst) ≠ .known .low := by
      rwa [← lastRst_append]
    refine ih (Ctl.kept_event p e h) ?_
    rcases Ctl.event_rst p e h with he | he
    · rw [he]
      exact lastRst_unknown hstep
    · rwa [he]

/-! The invariant, from acceptance on. -/

theorem State.inv_iff (s : State) :
    s.Inv ↔ s.ctl.fb.wf ∧ s.ctl.Kept ∧ s.PositionOk ∧ s.SelectReleased ∧ s.ResetReleased := by
  rw [Ctl.kept_iff]
  tauto

/-- The events of a busy machine's trace, performed, keep the invariant's clauses about what is still to come. -/
theorem Advances.inv {i : Instr} {u t : State} (h : Advances i u t) (hu : u.Inv) : t.Inv := by
  rw [State.inv_iff] at hu ⊢
  obtain ⟨hwf, hkept, -, hsel, hrst⟩ := hu
  rcases h with rfl | ⟨es, n, hn, hes, rfl⟩
  · have hidle : (finish i (emitAll u.remaining u)).remaining = [] :=
      State.remaining_of_idle (finish_seq i _)
    refine ⟨?_, ?_, ?_, ?_, ?_⟩
    · simpa using Ctl.run_keeps_wf u.par u.remaining hwf
    · simpa using Ctl.kept_run u.par u.remaining hkept
    · simp [State.PositionOk]
    · rw [State.SelectReleased, hidle]
      rcases finish_cases i (emitAll u.remaining u) with
        ⟨cs, dc, rst, sck, mosi, v, -, hf⟩ | ⟨r, -, hf⟩ | ⟨-, -, hf⟩
      · simp [hf, lastLevel]
      · simpa [hf, lastLevel] using hsel
      · simpa [hf, lastLevel] using hsel
    · rw [State.ResetReleased, hidle]
      simpa using Ctl.run_reset_released u.par u.remaining [] hkept (by simpa using hrst)
  · refine ⟨?_, ?_, ?_, ?_, ?_⟩
    · simpa using Ctl.run_keeps_wf u.par es hwf
    · simpa using Ctl.kept_run u.par es hkept
    · exact .inr (by simpa using hn)
    · rw [State.SelectReleased, ← hes, lastLevel_append] at hsel
      simpa [State.SelectReleased, State.remaining, emitAll_fields] using hsel
    · rw [State.ResetReleased, ← hes] at hrst
      simpa [State.ResetReleased, State.remaining] using Ctl.run_reset_released u.par es _ hkept hrst

/-- An idle machine that meets the invariant meets it right after accepting an operation: its trace releases
what it takes. -/
theorem accepted_inv {s : State} (i : Instr) (hs : s.Inv) (hidle : s.seq = .idle) : (accepted i s).Inv := by
  rw [State.inv_iff] at hs ⊢
  obtain ⟨hwf, hkept, -, hsel, hrst⟩ := hs
  rw [State.SelectReleased, State.remaining_of_idle hidle] at hsel
  rw [State.ResetReleased, State.remaining_of_idle hidle] at hrst
  have htrace := composed_traceOf s.par s.cfg i
  refine ⟨by simpa using hwf, by simpa using hkept, .inl rfl, ?_, ?_⟩
  · simpa [State.SelectReleased] using htrace.select_released hsel
  · simpa [State.ResetReleased, lastRst] using htrace.reset_released hrst

end Sys2Proof.Machine

open Sys2Proof Sys2Proof.Machine

/-- Settles O15: a step changes nothing or lets an accepted operation advance, and both acceptance and advance
keep the invariant. -/
theorem everyStepKeepsTheInvariant : Obligations.EveryStepKeepsTheInvariant := by
  intro s t hs hstep
  rcases step_cases hstep with rfl | ⟨i, k, -, ha⟩ | ⟨w, rest, i, hidle, -, -, ha⟩
  · exact hs
  · exact ha.inv hs
  · have hfetched : State.Inv { s with inbox := leftover s.par.cmds w ++ rest } := hs
    exact ha.inv (accepted_inv i hfetched hidle)
end


section
/-! PROOF. The block: the sequencer's steps, the request port, and what each step leaves of the configuration,
the driver state and the UB flag. -/

namespace Sys2Proof.Machine

theorem step_of_busy {s : State} {i : Instr} {k : Nat} (h : s.seq = .busy i k) : step s = .next (tick s) := by
  simp [step, h]

theorem step_of_decoded {s : State} {w : Presented} {rest : List Presented} {i : Instr} (h : s.seq = .idle)
    (hin : s.inbox = w :: rest) (hd : decode s.par.cmds w = .ok i) :
    step s = exec i { s with inbox := leftover s.par.cmds w ++ rest } := by
  simp [step, h, fetch, hin, hd]

theorem step_of_undecoded {s : State} {w : Presented} {rest : List Presented} {e : DecodeError}
    (h : s.seq = .idle) (hin : s.inbox = w :: rest) (hd : decode s.par.cmds w = .error e) :
    step s = .refused (refusalOf e) := by
  simp [step, h, fetch, hin, hd]

theorem tick_of_drop_nil {s : State} {i : Instr} {k : Nat} (h : s.seq = .busy i k)
    (hd : (traceOf s.par s.cfg i).drop k = []) : tick s = finish i s := by
  simp [tick, h, hd]

/-- With every port completing, the step at the last event performs it and finishes (Log 29). -/
theorem tick_of_last {s : State} {i : Instr} {k : Nat} {e : Event} (h : s.seq = .busy i k)
    (hd : (traceOf s.par s.cfg i).drop k = [e]) (hh : s.hang = none) : tick s = finish i (emit e s) := by
  simp [tick, h, hd, State.held_of_hang_none hh]

/-- With every port completing, the step at an earlier event performs it and advances (10_state.md R26). -/
theorem tick_of_more {s : State} {i : Instr} {k : Nat} {e f : Event} {rest : List Event}
    (h : s.seq = .busy i k) (hd : (traceOf s.par s.cfg i).drop k = e :: f :: rest) (hh : s.hang = none) :
    tick s = { emit e s with seq := .busy i (k + 1) } := by
  simp [tick, h, hd, State.held_of_hang_none hh]

/-- An operation with an event is no CONSTRUCT. -/
theorem ne_construct_of_event {p : Params} {c : Cfg} {i : Instr} {k : Nat} {e : Event} {rest : List Event}
    (h : (traceOf p c i).drop k = e :: rest) (cs dc rst sck mosi : LineId) (v : Bool) :
    i ≠ .construct cs dc rst sck mosi v := by
  rintro rfl
  simp [traceOf] at h

/-- As many sequencer steps as events are left give the coarse run's state (10_state.md R26). -/
theorem ticks_of_drop {i : Instr} {e : Event} {rest : List Event} {k : Nat} {s : State}
    (h : s.seq = .busy i k) (hd : (traceOf s.par s.cfg i).drop k = e :: rest) (hh : s.hang = none) :
    ticks (rest.length + 1) s = finish i (emitAll (e :: rest) s) := by
  induction rest generalizing e k s with
  | nil => exact tick_of_last h hd hh
  | cons f rest ih =>
    have hnext : (traceOf s.par s.cfg i).drop (k + 1) = f :: rest := by
      rw [← List.drop_drop, hd]
      rfl
    have hrun := ih (s := { emit e s with seq := .busy i (k + 1) }) rfl hnext (by simp [hh])
    rw [emitAll_with_seq, finish_with_seq] at hrun
    rw [List.length_cons, ticks, tick_of_more h hd hh, hrun]
    rfl

/-- The whole operation from its acceptance, event by event (10_state.md R26; one step for an empty trace). -/
theorem ticks_accepted (i : Instr) {s : State} (hh : s.hang = none) :
    ticks (max 1 (traceOf s.par s.cfg i).length) (accepted i s) = perform i s := by
  have hseq := accepted_seq i s
  rw [perform_completes i hh, ← finish_with_seq i (.busy i 0), ← emitAll_accepted]
  cases htr : traceOf s.par s.cfg i with
  | nil => exact tick_of_drop_nil hseq (by simp [htr])
  | cons e rest =>
    rw [List.length_cons, Nat.max_eq_right (by omega)]
    exact ticks_of_drop hseq (by simp [htr]) (by simp [hh])

/-- No operation is accepted while the sequencer is not IDLE (10_state.md R33). -/
theorem exec_refused_of_busy {s : State} (h : s.seq ≠ .idle) (i : Instr) : ∃ r, exec i s = .refused r := by
  cases hx : exec i s with
  | next t => exact absurd (exec_next hx).1 h
  | fault r => cases r
  | refused r => exact ⟨r, rfl⟩

/-! What an advance leaves in the block's own fields. -/

theorem Advances.par {i : Instr} {u t : State} (h : Advances i u t) : t.par = u.par := by
  rcases h with rfl | ⟨es, n, -, -, rfl⟩ <;> simp

theorem Advances.inbox {i : Instr} {u t : State} (h : Advances i u t) : t.inbox = u.inbox := by
  rcases h with rfl | ⟨es, n, -, -, rfl⟩ <;> simp

/-- An advance leaves the configuration, the driver state, the marks and `constructed` alone, or ends a
CONSTRUCT or an INIT (10_state.md R20, R24, R27). -/
theorem Advances.fields {i : Instr} {u t : State} (h : Advances i u t) :
    (∃ cs dc rst sck mosi v, i = .construct cs dc rst sck mosi v ∧ t.cfg = ⟨cs, dc, rst, sck, mosi, v⟩ ∧
      t.drv = .unconfigured ∧ t.constructed = true ∧
      t.ubMarks = (if u.constructed then u.ubMarks else [])) ∨
    ((∀ cs dc rst sck mosi v, i ≠ .construct cs dc rst sck mosi v) ∧ t.cfg = u.cfg ∧
      t.constructed = u.constructed ∧ t.ubMarks = u.ubMarks ∧
      (t.drv = u.drv ∨ ∃ r, i = .init r ∧ t.drv = .ready ∧ t.seq = .idle)) := by
  rcases h with rfl | ⟨es, n, hn, -, rfl⟩
  · rcases finish_cases i (emitAll u.remaining u) with
      ⟨cs, dc, rst, sck, mosi, v, hi, hf⟩ | ⟨r, rfl, hf⟩ | ⟨hi, -, hf⟩
    · exact .inl ⟨cs, dc, rst, sck, mosi, v, hi, by simp [hf]⟩
    · exact .inr (by simp [hf])
    · exact .inr ⟨hi, by simp [hf]⟩
  · refine .inr ⟨?_, by simp⟩
    rintro cs dc rst sck mosi v rfl
    simp [traceOf] at hn

/-- A step of an idle machine that takes an instruction lets it advance from its acceptance. -/
theorem step_takes {s t : State} (h : step s = .next t) {w : Presented} {rest : List Presented} {i : Instr}
    (hidle : s.seq = .idle) (hin : s.inbox = w :: rest) (hd : decode s.par.cmds w = .ok i) :
    Advances i (accepted i { s with inbox := leftover s.par.cmds w ++ rest }) t := by
  rw [step_of_decoded hidle hin hd] at h
  rw [(exec_next h).2]
  exact perform_advances i _

/-- A step changes nothing, or the operation it performs advances from a state with the parameters,
configuration and driver state of the one before. -/
theorem step_performs {s t : State} (h : step s = .next t) :
    t = s ∨ ∃ i u, s.Performs i ∧ u.par = s.par ∧ u.cfg = s.cfg ∧ u.drv = s.drv ∧ Advances i u t := by
  rcases step_cases h with rfl | ⟨i, k, hq, ha⟩ | ⟨w, rest, i, hidle, hin, hd, ha⟩
  · exact .inl rfl
  · exact .inr ⟨i, s, .inl ⟨k, hq⟩, rfl, rfl, rfl, ha⟩
  · exact .inr ⟨i, _, .inr ⟨hidle, w, rest, hin, hd⟩, by simp, by simp, by simp, ha⟩

/-- The flag is a function of the list of marks (10_state.md R27; Log 20). -/
theorem State.ub_congr {s t : State} (h : t.ubMarks = s.ubMarks) : t.ub = s.ub := by
  simp [State.ub, h]

theorem State.markUb_ub (r : UbReason) (s : State) : (s.markUb r).ub = true := by
  simp [State.ub]

/-- Accepting an operation leaves the flag set in exactly these cases (10_state.md R27). -/
theorem entryMarks_ub (i : Instr) (s : State) :
    (entryMarks i s).ub = true ↔ s.ub = true ∨ (i.isDrawing = true ∧ s.drv = .unconfigured) ∨
      ((∃ r, i = .init r) ∧ s.drv = .ready) := by
  have hdraw : (drawEntry s).ub = true ↔ s.ub = true ∨ s.drv = .unconfigured := by
    unfold drawEntry
    split <;> simp_all [State.markUb_ub]
  have hinit : (initEntry s).ub = true ↔ s.ub = true ∨ s.drv = .ready := by
    unfold initEntry
    split <;> simp_all [State.markUb_ub]
  cases i with
  | init r => simpa [entryMarks, Instr.isDrawing] using hinit
  | fillScreen | fillRect | drawPixel => simpa [entryMarks, Instr.isDrawing] using hdraw
  | _ => simp [entryMarks, Instr.isDrawing]

/-- In a constructed machine an advance leaves the marks alone, and the machine constructed. -/
theorem Advances.marks {i : Instr} {u t : State} (h : Advances i u t) (hc : u.constructed = true) :
    t.ubMarks = u.ubMarks ∧ t.constructed = true := by
  rcases h.fields with ⟨_, _, _, _, _, _, -, -, -, hcon, hub⟩ | ⟨-, -, hcon, hub, -⟩
  · exact ⟨by simpa [hc] using hub, hcon⟩
  · exact ⟨hub, hcon.trans hc⟩

end Sys2Proof.Machine

open Sys2Proof Sys2Proof.Machine

/-- Settles O5: the fields by definition, and every cell of the empty frame memory UNKNOWN. -/
theorem powerOnState : Obligations.PowerOnState := by
  refine ⟨rfl, rfl, rfl, rfl, rfl, rfl, rfl, rfl, fun c r => ?_⟩
  show Memory.cell [] c r = .unknown
  simp [Memory.cell]

/-- Settles O6: the two forms of an idle machine's step, and what `leftover` leaves of a command. -/
theorem stepRunsTheDecodedInstruction : Obligations.StepRunsTheDecodedInstruction := by
  intro s w rest hidle hin
  refine ⟨fun i hd => step_of_decoded hidle hin hd, fun e hd => step_of_undecoded hidle hin hd, ?_, ?_⟩
  · rintro code data rfl hnone
    have hd : decode s.par.cmds (.command code data) = .ok (.writeCommand code) := by
      simp [decode, decodeCommand, hnone]
    have hleft : leftover s.par.cmds (.command code data) = data.map fun b => .micro [0x11, b] := by
      simp [leftover, hnone]
    rw [step_of_decoded hidle hin hd, hleft]
  · intro hsome
    cases w with
    | request q => rfl
    | micro bytes => rfl
    | command code data =>
      obtain ⟨i, hi⟩ := Option.ne_none_iff_exists'.1 (hsome code data rfl)
      simp [leftover, hi]

/-- Settles O7: by whether the event is the last one; an operation with an event is no CONSTRUCT. -/
theorem sequencerEmitsOneEventAStep : Obligations.SequencerEmitsOneEventAStep := by
  intro s i k e rest hq hd hh
  refine ⟨tick s, step_of_busy hq, ?_⟩
  cases rest with
  | nil =>
    rw [tick_of_last hq hd hh]
    rcases finish_cases i (emit e s) with ⟨_, _, _, _, _, _, hi, -⟩ | ⟨r, rfl, hf⟩ | ⟨-, hi, hf⟩
    · exact (ne_construct_of_event hd _ _ _ _ _ _ hi).elim
    · simp [hf]
    · simp [hf, hi]
  | cons f rest => simp [tick_of_more hq hd hh]

/-- Settles O9: by induction on the events left, both forms perform them all and finish. -/
theorem oneEventStepsAgreeWithExec : Obligations.OneEventStepsAgreeWithExec := by
  intro i s t hh hx
  rw [(exec_next hx).2]
  exact ticks_accepted i hh

/-- Settles O10: an advance leaves the host's list alone, and `exec` answers a next state only at IDLE. -/
theorem busyPortAcceptsNothing : Obligations.BusyPortAcceptsNothing := by
  intro s hbusy
  refine ⟨fun t ht => ?_, exec_refused_of_busy hbusy⟩
  rcases step_cases ht with rfl | ⟨i, k, -, ha⟩ | ⟨_, _, _, hidle, -⟩
  · rfl
  · exact ha.inbox
  · exact absurd hidle hbusy

/-- Settles O16: only acceptance marks, an advance of a constructed machine keeps the marks, and a run's first
CONSTRUCT clears them. -/
theorem ubFlag : Obligations.UbFlag := by
  intro s t ht
  refine ⟨fun hc hub => ?_, fun hc hnone => ?_, fun w rest i hidle hin hd => ⟨fun hc hi => ?_, fun hc => ?_⟩⟩
  · rcases step_cases ht with rfl | ⟨i, k, -, ha⟩ | ⟨w, rest, i, -, -, -, ha⟩
    · exact ⟨hub, hc⟩
    · obtain ⟨hmarks, hcon⟩ := ha.marks hc
      exact ⟨(State.ub_congr hmarks).trans hub, hcon⟩
    · obtain ⟨hmarks, hcon⟩ := ha.marks (by simpa using hc)
      exact ⟨(State.ub_congr hmarks).trans ((entryMarks_ub i _).2 (.inl hub)), hcon⟩
  · rcases step_cases ht with rfl | ⟨i, k, -, ha⟩ | ⟨w, rest, i, hidle, hin, -⟩
    · rfl
    · exact State.ub_congr (ha.marks hc).1
    · simp [hidle, hin] at hnone
  · obtain ⟨cs, dc, rst, sck, mosi, v, rfl⟩ := hi
    have ha := step_takes ht hidle hin hd
    rcases ha.fields with ⟨_, _, _, _, _, _, -, -, -, -, hub⟩ | ⟨hi, -⟩
    · simp [State.ub, hub, hc]
    · exact absurd rfl (hi cs dc rst sck mosi v)
  · have ha := step_takes ht hidle hin hd
    rw [State.ub_congr (ha.marks (by simpa using hc)).1]
    exact entryMarks_ub i _

/-- Settles O17: an advance changes the driver state only where it ends a CONSTRUCT or an INIT. -/
theorem driverStateChangesInTwoPlaces : Obligations.DriverStateChangesInTwoPlaces := by
  intro s t ht hne
  rcases step_performs ht with rfl | ⟨i, u, hp, hpar, hcfg, hdrv, ha⟩
  · exact absurd rfl hne
  · rcases ha.fields with ⟨cs, dc, rst, sck, mosi, v, rfl, -, ht, -⟩ | ⟨-, -, -, -, ht | ⟨r, rfl, ht⟩⟩
    · exact .inl ⟨cs, dc, rst, sck, mosi, v, hp, ht⟩
    · exact absurd (ht.trans hdrv) hne
    · exact .inr ⟨r, hp, ht⟩

/-- Settles O18: an advance writes no parameter, and the configuration only where it ends a CONSTRUCT. -/
theorem configurationWrittenByConstructAlone : Obligations.ConfigurationWrittenByConstructAlone := by
  intro s t ht
  rcases step_performs ht with rfl | ⟨i, u, hp, hpar, hcfg, hdrv, ha⟩
  · exact ⟨rfl, absurd rfl⟩
  · refine ⟨ha.par.trans hpar, fun hne => ?_⟩
    rcases ha.fields with ⟨cs, dc, rst, sck, mosi, v, rfl, ht, -⟩ | ⟨-, ht, -⟩
    · exact ⟨cs, dc, rst, sck, mosi, v, hp, ht⟩
    · exact absurd (ht.trans hcfg) hne

/-- Settles O20: CONSTRUCT's trace is empty, so performing it is its final update alone. -/
theorem constructLoadsAndResets : Obligations.ConstructLoadsAndResets := by
  intro s cs dc rst sck mosi v hidle
  exact whenIdle_of_idle hidle _

/-- Settles O8: with no event at position 0 the sequencer's step is the final update. -/
theorem emptyTraceGoesIdleInOneStep : Obligations.EmptyTraceGoesIdleInOneStep := by
  intro s i htr
  refine ⟨_, step_of_busy (accepted_seq i s), ?_⟩
  rw [tick_of_drop_nil (accepted_seq i s) (by simp [htr])]
  simp

end


section
/-! PROOF. The frame memory: what a transaction stores, and the traces that store nothing. -/

namespace Sys2Proof.Machine

/-- An instruction that answers, with every port completing, has shown its whole trace to the controller. -/
theorem exec_ctl {i : Instr} {s t : State} (hh : s.hang = none) (h : exec i s = .next t) :
    t.ctl = s.ctl.run s.par (traceOf s.par s.cfg i) := by
  rw [(exec_next h).2, perform_completes i hh]
  simp

theorem Ctl.good_of_run_good {p : Params} {es : List Event} {o : Ctl} (h : (o.run p es).bad = false) :
    o.bad = false := by
  cases hb : o.bad with
  | false => rfl
  | true => simp [Ctl.run_of_bad p es hb, hb] at h

theorem Ctl.event_set_cs {p : Params} {v : Level} {o : Ctl} (h : o.bad = false) :
    o.event p (.set .cs v) = { o with cs := .known v } := by
  simp [Ctl.event, h]

/-- A transaction that does not break the controller: its bytes are received with chip-select active and its
mode, and chip-select is released. -/
theorem Ctl.run_txn_good {p : Params} {mode : Level} {bytes : List Byte} {o : Ctl}
    (h : (o.run p (txn p mode bytes)).bad = false) :
    (Ctl.receiveAll p bytes { o with cs := .known p.csActive, dc := .known mode }).bad = false ∧
    o.run p (txn p mode bytes) =
      { Ctl.receiveAll p bytes { o with cs := .known p.csActive, dc := .known mode } with
        cs := .known p.csActive.flip } := by
  have hb := Ctl.good_of_run_good h
  have hopen : (o.event p (.set .dc mode)).event p (.set .cs p.csActive) =
      { o with cs := .known p.csActive, dc := .known mode } := by
    simp [Ctl.event, hb]
  rw [Ctl.run_txn, hopen] at h ⊢
  have hr := Ctl.good_of_run_good (p := p) (es := [.set .cs p.csActive.flip]) h
  exact ⟨hr, Ctl.event_set_cs hr⟩

/-- A command byte outside the table breaks the controller (44_controller.md R141, R144). -/
theorem Ctl.run_unknown_command_txn_bad {p : Params} {o : Ctl} {b : Byte} (hc : p.cmds.cmdOf b = none) :
    (o.run p (txn p .low [b])).bad = true := by
  by_contra hgood
  rw [Bool.not_eq_true] at hgood
  have hrec := (Ctl.run_txn_good hgood).1
  simp [Ctl.event, Ctl.good_of_run_good hgood, Ctl.receive, Ctl.commandByte, hc] at hrec

/-- A command transaction that does not break the controller sent a command of the table to a controller that
takes one (44_controller.md R143). -/
theorem Ctl.run_command_txn_good {p : Params} {o : Ctl} {b : Byte}
    (h : (o.run p (txn p .low [b])).bad = false) :
    o.Accepts ∧ ∃ c, p.cmds.cmdOf b = some c ∧
      o.run p (txn p .low [b]) =
        { Ctl.runCommand p c { o with
            cs := .known p.csActive, dc := .known .low, cmd := .cmd c, params := .known [] } with
          cs := .known p.csActive.flip } := by
  have hacc : o.Accepts := by
    by_contra hn
    simp [Ctl.run_command_txn_bad hn b] at h
  refine ⟨hacc, ?_⟩
  cases hc : p.cmds.cmdOf b with
  | none => simp [Ctl.run_unknown_command_txn_bad hc] at h
  | some c => exact ⟨c, rfl, Ctl.run_command_txn hacc hc⟩

/-- A byte sent in data mode that does not break the controller is received as a data byte. -/
theorem Ctl.event_tx_data {p : Params} {b : Byte} {o : Ctl} (hcs : o.cs = .known p.csActive)
    (hdc : o.dc = .known .high) (h : (o.event p (.tx b)).bad = false) :
    o.event p (.tx b) = o.dataByte p b := by
  have hb := Ctl.good_of_run_good (es := [.tx b]) h
  simp only [Ctl.event, hb, Bool.false_eq_true, ↓reduceIte, Ctl.receive, hcs, hdc] at h ⊢
  split at h
  · rw [if_pos ‹_›]
  · simp at h

/-- A pixel that does not break the controller is written at the cursor, which goes one cell on
(44_controller.md R157). -/
theorem Ctl.pixel_good {p : Params} {v : Word16} {o : Ctl} (h : (o.pixel p v).bad = false) :
    ∃ xs xe cx cy, o.xs = .known xs ∧ o.xe = .known xe ∧ o.cx = .known cx ∧ o.cy = .known cy ∧
      o.pixel p v = { o with
        fb := o.fb.fbWrite cx cy v, half := .known none
        cx := .known (if xe.toNat < cx + 1 then xs.toNat else cx + 1)
        cy := .known (if xe.toNat < cx + 1 then cy + 1 else cy) } := by
  unfold Ctl.pixel at h ⊢
  split at h
  · rename_i hregs
    rw [if_pos hregs]
    split at h
    · rename_i xs xe ys ye cx cy hxs hxe hys hye hcx hcy
      split at h
      · simp at h
      · split at h
        · simp at h
        · refine ⟨xs, xe, cx, cy, hxs, hxe, hcx, hcy, ?_⟩
          rename_i hrow hpanel
          simp only [hxs, hxe, hys, hye, hcy, if_neg hrow, if_neg hpanel]
          split <;> rfl
    · simp at h
  · simp at h

theorem Ctl.storedCells_of_cmd_ne {o : Ctl} (h : o.cmd ≠ .cmd .ramwr) (n : Nat) : o.storedCells n = [] := by
  unfold Ctl.storedCells
  split
  · exact absurd ‹_› h
  · rfl

theorem Ctl.runParams_good {c : Cmd} {ps : List Byte} {o : Ctl} (h : (o.runParams c ps).bad = false) :
    (o.runParams c ps).fb = o.fb ∧ (o.runParams c ps).cmd = o.cmd := by
  unfold Ctl.runParams at h ⊢
  split
  · exact ⟨rfl, rfl⟩
  · exact ⟨rfl, rfl⟩
  · split
    · exact ⟨rfl, rfl⟩
    · simp_all
  · split
    · exact ⟨rfl, rfl⟩
    · simp_all
  · exact ⟨rfl, rfl⟩

/-- With a command other than RAMWR current, a data byte leaves the frame memory and the command alone, unless
it breaks the controller. -/
theorem Ctl.dataByte_other {p : Params} {b : Byte} {o : Ctl} (hc : o.cmd ≠ .cmd .ramwr)
    (h : (o.dataByte p b).bad = false) :
    (o.dataByte p b).fb = o.fb ∧ (o.dataByte p b).cmd = o.cmd := by
  unfold Ctl.dataByte at h ⊢
  split at h
  · exact absurd ‹_› hc
  · split at h
    · rename_i ps _
      split at h
      · rename_i hlt
        rw [if_pos hlt]
        dsimp only at h ⊢
        split at h
        · rename_i hlen
          rw [if_pos hlen]
          obtain ⟨hfb, hcmd'⟩ := Ctl.runParams_good h
          exact ⟨hfb, hcmd'⟩
        · rename_i hlen
          rw [if_neg hlen]
          exact ⟨rfl, rfl⟩
      · simp at h
    · simp at h
  · simp at h
  · simp at h

/-- In RAMWR, a byte is kept as a pixel's first one, or is its second one and stores it to the cursor's cell. -/
theorem Ctl.pixelByte_stores {p : Params} {b : Byte} {o : Ctl} (hc : o.cmd = .cmd .ramwr)
    (h : (o.pixelByte p b).bad = false) {n a : Nat} (ha : OutsideCells (o.storedCells (n + 1)) a) :
    (o.pixelByte p b).fb.read a = o.fb.read a ∧ OutsideCells ((o.pixelByte p b).storedCells n) a := by
  unfold Ctl.pixelByte at h ⊢
  split at h
  · rename_i hhalf
    refine ⟨rfl, ?_⟩
    simpa [Ctl.storedCells, hhalf] using ha
  · rename_i hi hhalf
    obtain ⟨xs, xe, cx, cy, hxs, hxe, hcx, hcy, hpix⟩ := Ctl.pixel_good h
    have hcount : (n + 1 + 1) / 2 = n / 2 + 1 := by omega
    simp only at hxs hxe hcx hcy
    rw [Ctl.storedCells, hc, hxs, hxe, hcx, hcy, hhalf] at ha
    simp only [hcount, cellsFrom, OutsideCells, List.forall_mem_cons] at ha
    obtain ⟨⟨h0, h1⟩, hrest⟩ := ha
    rw [hpix]
    refine ⟨Memory.read_fbWrite_other _ _ h0 h1, ?_⟩
    simp only [Ctl.storedCells, hc, hxs, hxe, Nat.add_zero]
    by_cases hend : xe.toNat < cx + 1
    · simpa only [if_pos hend] using hrest
    · simpa only [if_neg hend] using hrest
  · simp at h

/-- One data byte stores to the first of the cells that the bytes from it on can store to, or to none. -/
theorem Ctl.dataByte_stores {p : Params} {b : Byte} {o : Ctl} (h : (o.dataByte p b).bad = false) {n a : Nat}
    (ha : OutsideCells (o.storedCells (n + 1)) a) :
    (o.dataByte p b).fb.read a = o.fb.read a ∧ OutsideCells ((o.dataByte p b).storedCells n) a := by
  by_cases hc : o.cmd = .cmd .ramwr
  · have hdata : o.dataByte p b = o.pixelByte p b := by simp [Ctl.dataByte, hc]
    rw [hdata] at h ⊢
    exact Ctl.pixelByte_stores hc h ha
  · obtain ⟨hfb, hcmd⟩ := Ctl.dataByte_other hc h
    rw [Ctl.storedCells_of_cmd_ne (by rwa [hcmd]), hfb]
    exact ⟨rfl, by simp [OutsideCells]⟩

/-- The bytes of a data transaction store to those cells alone. -/
theorem Ctl.receiveAll_stores {p : Params} {bytes : List Byte} {o : Ctl} (hcs : o.cs = .known p.csActive)
    (hdc : o.dc = .known .high) (h : (o.receiveAll p bytes).bad = false) {a : Nat}
    (ha : OutsideCells (o.storedCells bytes.length) a) : (o.receiveAll p bytes).fb.read a = o.fb.read a := by
  induction bytes generalizing o with
  | nil => rfl
  | cons b bs ih =>
    rw [Ctl.receiveAll_cons] at h ⊢
    have hgood := Ctl.good_of_run_good (p := p) (es := bs.map .tx) h
    have hbyte := Ctl.event_tx_data hcs hdc hgood
    rw [hbyte] at h hgood ⊢
    obtain ⟨hread, hrest⟩ := Ctl.dataByte_stores hgood ha
    rcases o.linesKept_dataByte p b with hbr | ⟨hcs', hdc', -⟩
    · simp [hbr] at hgood
    · rw [ih (hcs'.trans hcs) (hdc'.trans hdc) h hrest, hread]

/-- A data transaction stores to the cells from the cursor on and to no other byte (44_controller.md R157). -/
theorem Ctl.data_txn_stores {p : Params} {bytes : List Byte} {o : Ctl}
    (h : (o.run p (txn p .high bytes)).bad = false) {a : Nat}
    (ha : OutsideCells (o.storedCells bytes.length) a) :
    (o.run p (txn p .high bytes)).fb.read a = o.fb.read a := by
  obtain ⟨hrec, hrun⟩ := Ctl.run_txn_good h
  rw [hrun]
  exact Ctl.receiveAll_stores (o := { o with cs := .known p.csActive, dc := .known .high }) rfl rfl hrec ha

/-- A trace after which the frame memory reads as before, unless it broke the controller. -/
def KeepsFrame (p : Params) (es : List Event) : Prop :=
  ∀ o : Ctl, (o.run p es).bad = false → ∀ a, (o.run p es).fb.read a = o.fb.read a

theorem keepsFrame_nil (p : Params) : KeepsFrame p [] := fun _ _ _ => rfl

theorem KeepsFrame.append {p : Params} {es fs : List Event} (he : KeepsFrame p es) (hf : KeepsFrame p fs) :
    KeepsFrame p (es ++ fs) := by
  intro o h a
  rw [Ctl.run_append] at h ⊢
  rw [hf _ h a, he o (Ctl.good_of_run_good h) a]

/-- What transmits no byte stores nothing (44_controller.md R146). -/
theorem keepsFrame_of_no_tx {p : Params} {es : List Event} (h : ∀ e ∈ es, ∀ b, e ≠ .tx b) :
    KeepsFrame p es := by
  induction es with
  | nil => exact keepsFrame_nil p
  | cons e es ih =>
    have hone : KeepsFrame p [e] := by
      intro o hgood a
      have hb := Ctl.good_of_run_good hgood
      rcases Ctl.event_cases p e hb with he | ⟨hfb, -⟩ | ⟨b, -, -, -, he, -⟩
      · simp [he] at hgood
      · exact congrArg (Memory.read · a) hfb
      · exact absurd he (h e List.mem_cons_self b)
    exact hone.append (ih fun e' he' => h e' (List.mem_cons_of_mem e he'))

/-- A command byte stores nothing. -/
theorem keepsFrame_command (p : Params) (b : Byte) : KeepsFrame p (txn p .low [b]) := by
  intro o h a
  obtain ⟨-, c, -, hrun⟩ := Ctl.run_command_txn_good h
  rw [hrun]
  exact congrArg (Memory.read · a) (Ctl.runCommand_fb p c _).1

/-- After a command other than RAMWR, RAMWR is not current. -/
theorem Ctl.runCommand_cmd_ne {p : Params} {c : Cmd} (hc : c ≠ .ramwr) {o : Ctl} (ho : o.cmd = .cmd c) :
    (o.runCommand p c).cmd ≠ .cmd .ramwr := by
  cases c <;> simp_all [Ctl.runCommand, Ctl.resetDefaults]

/-- A command other than RAMWR and its data bytes store nothing. -/
theorem keepsFrame_command_data {p : Params} {b : Byte} {c : Cmd} (hb : p.cmds.cmdOf b = some c)
    (hc : c ≠ .ramwr) (bytes : List Byte) : KeepsFrame p (txn p .low [b] ++ txn p .high bytes) := by
  intro o h a
  rw [Ctl.run_append] at h ⊢
  have hcmdgood := Ctl.good_of_run_good h
  obtain ⟨-, d, hd, hrun⟩ := Ctl.run_command_txn_good hcmdgood
  obtain rfl : c = d := by simpa [hb] using hd
  have hcmd : (o.run p (txn p .low [b])).cmd ≠ .cmd .ramwr := by
    rw [hrun]
    exact Ctl.runCommand_cmd_ne hc rfl
  rw [Ctl.data_txn_stores h (by simp [Ctl.storedCells_of_cmd_ne hcmd, OutsideCells]),
    keepsFrame_command p b o hcmdgood a]

end Sys2Proof.Machine
end


section
/-! PROOF. Parameters taken by the controller, the window SET_WINDOW leaves, and the cells a stream reaches. -/

namespace Sys2Proof.Machine

/-- The controller takes a byte as a data byte (44_controller.md R143). -/
abbrev Ctl.Listens (p : Params) (o : Ctl) : Prop :=
  o.bad = false ∧ o.cs = .known p.csActive ∧ o.dc = .known .high ∧ o.resetDone = .known true ∧
    o.rst = .known .high ∧ o.quiet = .known 0

theorem Ctl.event_tx_of_listens {p : Params} {o : Ctl} (h : o.Listens p) (b : Byte) :
    o.event p (.tx b) = o.dataByte p b := by
  obtain ⟨hbad, hcs, hdc, hdone, hrst, hquiet⟩ := h
  simp [Ctl.event, Ctl.receive, hbad, hcs, hdc, hdone, hrst, hquiet]

/-- A command with parameters only waits for them. -/
theorem Ctl.runCommand_of_params {p : Params} {c : Cmd} (h : 0 < nparams c) (o : Ctl) :
    o.runCommand p c = o := by
  cases c with
  | colmod | madctl | caset | raset => rfl
  | swreset | slpout | invoff | invon | dispon | ramwr => simp [nparams] at h

/-- A parameter byte is added to the list, and the last one completes it (44_controller.md R143). -/
theorem Ctl.dataByte_param {p : Params} {c : Cmd} {ps : List Byte} {o : Ctl} (hcmd : o.cmd = .cmd c)
    (hps : o.params = .known ps) (h : ps.length < nparams c) (b : Byte) :
    o.dataByte p b =
      if ps.length + 1 = nparams c then Ctl.runParams c (ps ++ [b]) { o with params := .known (ps ++ [b]) }
      else { o with params := .known (ps ++ [b]) } := by
  have hc : c ≠ .ramwr := by
    rintro rfl
    simp [nparams] at h
  cases c <;> simp_all [Ctl.dataByte]

/-- All the parameters still missing, received: the list complete takes effect (44_controller.md R143). -/
theorem Ctl.receiveAll_params {p : Params} {c : Cmd} {ps bytes : List Byte} {o : Ctl} (h : o.Listens p)
    (hcmd : o.cmd = .cmd c) (hps : o.params = .known ps) (hlen : ps.length + bytes.length = nparams c)
    (hne : bytes ≠ []) :
    o.receiveAll p bytes = Ctl.runParams c (ps ++ bytes) { o with params := .known (ps ++ bytes) } := by
  induction bytes generalizing ps o with
  | nil => exact absurd rfl hne
  | cons b bs ih =>
    rw [List.length_cons] at hlen
    rw [Ctl.receiveAll_cons, Ctl.event_tx_of_listens h, Ctl.dataByte_param hcmd hps (by omega)]
    cases bs with
    | nil => rw [if_pos (by simpa using hlen), Ctl.receiveAll_nil]
    | cons b' bs =>
      rw [List.length_cons] at hlen
      rw [if_neg (by omega)]
      have hrest := ih (ps := ps ++ [b]) (o := { o with params := .known (ps ++ [b]) }) h hcmd rfl
        (by simp; omega) (by simp)
      simpa using hrest

/-- A command and all its parameters, sent to a controller that takes a command byte (30_encoding.md R73). -/
theorem Ctl.run_params_txns {p : Params} {o : Ctl} (h : o.Accepts) {b : Byte} {c : Cmd}
    (hb : p.cmds.cmdOf b = some c) {bytes : List Byte} (hlen : bytes.length = nparams c) (hne : bytes ≠ []) :
    o.run p (txn p .low [b] ++ txn p .high bytes) =
      (Ctl.runParams c bytes { o with
        cs := .known p.csActive, dc := .known .high, cmd := .cmd c, params := .known bytes }).event p
        (.set .cs p.csActive.flip) := by
  have hpos : 0 < nparams c := hlen ▸ List.length_pos_iff.2 hne
  rw [Ctl.run_append, Ctl.run_command_txn h hb, Ctl.runCommand_of_params hpos, Ctl.run_txn]
  obtain ⟨hbad, hdone, hrst, hquiet, -⟩ := h
  have hrec := Ctl.receiveAll_params (p := p) (ps := []) (bytes := bytes) (c := c)
    (o := { o with cs := .known p.csActive, dc := .known .high, cmd := .cmd c, params := .known [] })
    ⟨hbad, rfl, rfl, hdone, hrst, hquiet⟩ rfl rfl (by simpa using hlen) hne
  simp only [List.nil_append] at hrec
  rw [← hrec]
  simp [Ctl.event, hbad]

/-- What CASET leaves in a controller that takes its columns (44_controller.md R154). -/
def Ctl.columnsSet (p : Params) (x0 x1 : Word16) (o : Ctl) : Ctl :=
  { o with
    cs := .known p.csActive.flip, dc := .known .high, cmd := .cmd .caset, params := .known (encPair x0 x1)
    xs := .known x0, xe := .known x1 }

/-- What RASET leaves in a controller that takes its rows (44_controller.md R155). -/
def Ctl.rowsSet (p : Params) (y0 y1 : Word16) (o : Ctl) : Ctl :=
  { o with
    cs := .known p.csActive.flip, dc := .known .high, cmd := .cmd .raset, params := .known (encPair y0 y1)
    ys := .known y0, ye := .known y1 }

theorem Ctl.accepts_columnsSet (p : Params) (x0 x1 : Word16) {o : Ctl} (h : o.Accepts) :
    (o.columnsSet p x0 x1).Accepts := by
  obtain ⟨hbad, hdone, hrst, hquiet, -⟩ := h
  exact ⟨hbad, hdone, hrst, hquiet, rfl⟩

theorem Ctl.accepts_rowsSet (p : Params) (y0 y1 : Word16) {o : Ctl} (h : o.Accepts) :
    (o.rowsSet p y0 y1).Accepts := by
  obtain ⟨hbad, hdone, hrst, hquiet, -⟩ := h
  exact ⟨hbad, hdone, hrst, hquiet, rfl⟩

/-- CASET sent to a controller that takes a command byte (44_controller.md R154, R160). -/
theorem Ctl.run_casetTrace {p : Params} (hd : p.cmds.Distinct) {o : Ctl} (h : o.Accepts) (x0 x1 : Word16) :
    o.run p (casetTrace p x0 x1) =
      if x0.toNat ≤ x1.toNat ∧ x1.toNat < panelWidth then o.columnsSet p x0 x1 else Ctl.broken := by
  have hb : p.cmds.cmdOf p.cmds.caset = some .caset := p.cmds.cmdOf_byteOf hd .caset
  rw [casetTrace, writeCommandTrace, writeDataBufTrace, Ctl.run_params_txns h hb rfl (by simp [encPair, enc16])]
  simp only [encPair, enc16, List.cons_append, List.nil_append, Ctl.runParams, join16_hiByte_loByte]
  split
  · exact Ctl.event_set_cs h.1
  · exact Ctl.event_of_bad p _ rfl

/-- RASET sent to a controller that takes a command byte (44_controller.md R155, R160). -/
theorem Ctl.run_rasetTrace {p : Params} (hd : p.cmds.Distinct) {o : Ctl} (h : o.Accepts) (y0 y1 : Word16) :
    o.run p (rasetTrace p y0 y1) =
      if y0.toNat ≤ y1.toNat ∧ y1.toNat < panelHeight then o.rowsSet p y0 y1 else Ctl.broken := by
  have hb : p.cmds.cmdOf p.cmds.raset = some .raset := p.cmds.cmdOf_byteOf hd .raset
  rw [rasetTrace, writeCommandTrace, writeDataBufTrace, Ctl.run_params_txns h hb rfl (by simp [encPair, enc16])]
  simp only [encPair, enc16, List.cons_append, List.nil_append, Ctl.runParams, join16_hiByte_loByte]
  split
  · exact Ctl.event_set_cs h.1
  · exact Ctl.event_of_bad p _ rfl

/-- What SET_WINDOW leaves in a controller that it did not break: the window, RAMWR current and the cursor at the
window's start (42_window.md R119; 44_controller.md R156). -/
def Ctl.windowSet (p : Params) (x0 y0 x1 y1 : Word16) (o : Ctl) : Ctl :=
  { o with
    cs := .known p.csActive.flip, dc := .known .low, cmd := .cmd .ramwr, params := .known []
    xs := .known x0, xe := .known x1, ys := .known y0, ye := .known y1
    cx := .known x0.toNat, cy := .known y0.toNat, half := .known none }

/-- SET_WINDOW sent to a controller that takes a command byte: the window set, or the controller broken by a range
(42_window.md R119, R121). -/
theorem Ctl.run_setWindowTrace {p : Params} (hd : p.cmds.Distinct) {o : Ctl} (h : o.Accepts)
    (x0 y0 x1 y1 : Word16) :
    o.run p (setWindowTrace p x0 y0 x1 y1) =
      if WindowOk x0 y0 x1 y1 then o.windowSet p x0 y0 x1 y1 else Ctl.broken := by
  have hbroken (es : List Event) : Ctl.broken.run p es = Ctl.broken := Ctl.run_of_bad p es rfl
  have haccx := Ctl.accepts_columnsSet p x0 x1 h
  rw [setWindowTrace, Ctl.run_append, Ctl.run_append, Ctl.run_casetTrace hd h]
  by_cases hx : x0.toNat ≤ x1.toNat ∧ x1.toNat < panelWidth
  · rw [if_pos hx, Ctl.run_rasetTrace hd haccx]
    by_cases hy : y0.toNat ≤ y1.toNat ∧ y1.toNat < panelHeight
    · rw [if_pos hy, if_pos ⟨hx.1, hx.2, hy.1, hy.2⟩]
      exact Ctl.run_command_txn (Ctl.accepts_rowsSet p y0 y1 haccx) (p.cmds.cmdOf_byteOf hd .ramwr)
    · rw [if_neg hy, if_neg fun hw => hy hw.2.2, hbroken]
  · rw [if_neg hx, if_neg fun hw => hx ⟨hw.1, hw.2.1⟩, hbroken, hbroken]

/-- SET_WINDOW that does not break the controller has set the window. -/
theorem Ctl.run_setWindowTrace_good {p : Params} (hd : p.cmds.Distinct) {o : Ctl} {x0 y0 x1 y1 : Word16}
    (h : (o.run p (setWindowTrace p x0 y0 x1 y1)).bad = false) :
    o.run p (setWindowTrace p x0 y0 x1 y1) = o.windowSet p x0 y0 x1 y1 := by
  have hacc : o.Accepts := by
    rw [setWindowTrace, casetTrace, writeCommandTrace, List.append_assoc, List.append_assoc, Ctl.run_append] at h
    exact (Ctl.run_command_txn_good (Ctl.good_of_run_good h)).1
  rw [Ctl.run_setWindowTrace hd hacc] at h ⊢
  split at h
  · exact if_pos ‹_›
  · simp at h

/-- The window set and one data transaction after it store to the window's cells from its start on. -/
theorem Ctl.window_stream_stores {p : Params} (hd : p.cmds.Distinct) {o : Ctl} {x0 y0 x1 y1 : Word16}
    {bytes : List Byte} (h : (o.run p (setWindowTrace p x0 y0 x1 y1 ++ txn p .high bytes)).bad = false)
    {a : Nat} (ha : OutsideCells (cellsFrom x0.toNat x1.toNat x0.toNat y0.toNat (bytes.length / 2)) a) :
    (o.run p (setWindowTrace p x0 y0 x1 y1 ++ txn p .high bytes)).fb.read a = o.fb.read a := by
  rw [Ctl.run_append] at h ⊢
  have hset := Ctl.run_setWindowTrace_good hd (Ctl.good_of_run_good h)
  rw [hset] at h ⊢
  exact Ctl.data_txn_stores h ha

/-- The cells of `n` pixels lie in the window's columns, and as many rows down as the pixels fill. -/
theorem mem_cellsFrom {xs xe c r n : Nat} {q : Nat × Nat} (hxs : xs ≤ c) (hxe : c ≤ xe)
    (hq : q ∈ cellsFrom xs xe c r n) :
    xs ≤ q.1 ∧ q.1 ≤ xe ∧ r ≤ q.2 ∧ (q.2 - r) * (xe + 1 - xs) + (q.1 - xs) < (c - xs) + n := by
  induction n generalizing c r with
  | zero => simp [cellsFrom] at hq
  | succ n ih =>
    rw [cellsFrom, List.mem_cons] at hq
    rcases hq with rfl | hq
    · exact ⟨hxs, hxe, le_rfl, by simp⟩
    · split at hq
      · obtain ⟨h1, h2, h3, h4⟩ := ih le_rfl (hxs.trans hxe) hq
        have hrow : q.2 - r = q.2 - (r + 1) + 1 := by omega
        rw [hrow, Nat.succ_mul]
        omega
      · obtain ⟨h1, h2, h3, h4⟩ := ih (by omega) (by omega) hq
        omega

/-- As many pixels as a rectangle has cells, from its start on, stay in it (43_drawing.md R131). -/
theorem Clip.covers_of_mem_cellsFrom {q : Clip} (hcw : 0 < q.cw) {c r : Nat}
    (h : (c, r) ∈ cellsFrom q.x (q.x + q.cw - 1) q.x q.y (q.cw * q.ch)) : q.covers c r = true := by
  obtain ⟨h1, h2, h3, h4⟩ := mem_cellsFrom le_rfl (by omega) h
  have hwidth : q.x + q.cw - 1 + 1 - q.x = q.cw := by omega
  rw [hwidth, Nat.sub_self, Nat.zero_add, Nat.mul_comm q.cw] at h4
  have hrow : r - q.y < q.ch := lt_of_mul_lt_mul_right (lt_of_le_of_lt (Nat.le_add_right _ _) h4) (Nat.zero_le _)
  simp only [Clip.covers, Bool.and_eq_true, decide_eq_true_eq]
  omega

theorem onPanel_iff {x y : Word16} : onPanel x y = true ↔ x.toNat < panelWidth ∧ y.toNat < panelHeight := by
  simp [onPanel]

/-- A clipped rectangle is not empty and lies on the panel (43_drawing.md R127, R128). -/
theorem clipRect_some {x y w h : Word16} {q : Clip} (hq : clipRect x y w h = some q) :
    q.x = x.toNat ∧ q.y = y.toNat ∧ 0 < q.cw ∧ 0 < q.ch ∧ q.x + q.cw ≤ panelWidth ∧ q.y + q.ch ≤ panelHeight := by
  unfold clipRect at hq
  split at hq
  · rename_i hon
    obtain ⟨hx, hy⟩ := onPanel_iff.1 hon
    dsimp only at hq
    split at hq
    · simp at hq
    · rename_i hne
      simp only [Option.some.injEq] at hq
      subst hq
      refine ⟨rfl, rfl, ?_⟩
      simp only [clipExtent, panelWidth, panelHeight] at hx hy hne ⊢
      omega
  · simp at hq

@[simp] theorem length_pixelBytes (hi lo : Byte) (n : Nat) : (pixelBytes hi lo n).length = 2 * n := by
  induction n with
  | zero => rfl
  | succ n ih =>
    simp only [pixelBytes, List.length_cons, ih]
    omega

/-- FILL_RECT stores to its clipped rectangle alone, unless it breaks the controller. -/
theorem Ctl.fillRectTrace_stores {p : Params} (hd : p.cmds.Distinct) {x y w h color : Word16} {o : Ctl}
    (hgood : (o.run p (fillRectTrace p x y w h color)).bad = false) {a : Nat}
    (ha : ∀ q c r, clipRect x y w h = some q → q.covers c r = true → a ≠ cellAddr c r ∧ a ≠ cellAddr c r + 1) :
    (o.run p (fillRectTrace p x y w h color)).fb.read a = o.fb.read a := by
  unfold fillRectTrace at hgood ⊢
  cases hq : clipRect x y w h with
  | none => rfl
  | some q =>
    rw [hq] at hgood
    obtain ⟨hx, hy, hcw, hch, hright, hbottom⟩ := clipRect_some hq
    simp only [panelWidth, panelHeight] at hright hbottom
    refine Ctl.window_stream_stores hd hgood fun cell hcell => ha q cell.1 cell.2 hq ?_
    have hx1 : (BitVec.ofNat 16 (q.x + q.cw - 1)).toNat = q.x + q.cw - 1 := by
      rw [BitVec.toNat_ofNat]
      omega
    rw [hx1, ← hx, ← hy, length_pixelBytes, Nat.mul_div_cancel_left _ (by omega)] at hcell
    exact Clip.covers_of_mem_cellsFrom hcw hcell

/-- One pixel of the panel is not clipped. -/
theorem clipRect_one {x y : Word16} (h : onPanel x y = true) :
    clipRect x y 1 1 = some ⟨x.toNat, y.toNat, 1, 1⟩ := by
  obtain ⟨hx, hy⟩ := onPanel_iff.1 h
  have hcw : clipExtent panelWidth x.toNat 1 = 1 := by
    unfold clipExtent
    omega
  have hch : clipExtent panelHeight y.toNat 1 = 1 := by
    unfold clipExtent
    omega
  simp [clipRect, h, hcw, hch]

/-- DRAW_PIXEL is FILL_RECT of one pixel (43_drawing.md R138). -/
theorem drawPixelTrace_eq_fillRectTrace (p : Params) (x y color : Word16) :
    drawPixelTrace p x y color = fillRectTrace p x y 1 1 color := by
  unfold drawPixelTrace fillRectTrace
  split
  · rename_i hon
    rw [clipRect_one hon]
    simp [pixelStreamTrace, writeDataBufTrace, pixelBytes]
  · rename_i hoff
    simp [clipRect, hoff]

/-- FILL_SCREEN is FILL_RECT of the panel (43_drawing.md R133). -/
theorem fillScreenTrace_eq_fillRectTrace (p : Params) (color : Word16) :
    fillScreenTrace p color = fillRectTrace p 0 0 240 320 color := rfl

/-! The traces that send no pixel byte. -/

theorem keepsFrame_casetTrace {p : Params} (hd : p.cmds.Distinct) (x0 x1 : Word16) :
    KeepsFrame p (casetTrace p x0 x1) :=
  keepsFrame_command_data (p.cmds.cmdOf_byteOf hd .caset) (by simp) _

theorem keepsFrame_rasetTrace {p : Params} (hd : p.cmds.Distinct) (y0 y1 : Word16) :
    KeepsFrame p (rasetTrace p y0 y1) :=
  keepsFrame_command_data (p.cmds.cmdOf_byteOf hd .raset) (by simp) _

theorem keepsFrame_colmod {p : Params} (hd : p.cmds.Distinct) (b : Byte) :
    KeepsFrame p (oneParamTrace p p.cmds.colmod b) :=
  keepsFrame_command_data (p.cmds.cmdOf_byteOf hd .colmod) (by simp) _

theorem keepsFrame_madctl {p : Params} (hd : p.cmds.Distinct) (b : Byte) :
    KeepsFrame p (oneParamTrace p p.cmds.madctl b) :=
  keepsFrame_command_data (p.cmds.cmdOf_byteOf hd .madctl) (by simp) _

theorem keepsFrame_sleep (p : Params) (ms : Nat) : KeepsFrame p [.sleep ms] :=
  keepsFrame_of_no_tx (by simp)

theorem keepsFrame_initTrace {p : Params} (hd : p.cmds.Distinct) (c : Cfg) (r : BitRate) :
    KeepsFrame p (initTrace p c r) := by
  have hcfg : KeepsFrame p ([.busCfg r c.sckId c.mosiId, .outCfg .cs, .outCfg .dc, .outCfg .rst] ++
      resetPulseTrace p) := keepsFrame_of_no_tx (by simp [resetPulseTrace])
  have hsw := (hcfg.append (keepsFrame_command p p.cmds.swreset)).append (keepsFrame_sleep p p.tSwReset)
  have hslp := (hsw.append (keepsFrame_command p p.cmds.slpout)).append (keepsFrame_sleep p p.tSlpOut)
  have hregs := (hslp.append (keepsFrame_colmod hd p.colmod16bpp)).append (keepsFrame_madctl hd p.madctlNormal)
  exact ((hregs.append (keepsFrame_command p _)).append (keepsFrame_command p _)).append (keepsFrame_sleep p _)

/-- Every instruction that sends no pixel byte leaves the frame memory as it was (44_controller.md R146). -/
theorem keepsFrame_traceOf {p : Params} (hd : p.cmds.Distinct) (c : Cfg) {i : Instr}
    (h : i.sendsNoPixel = true) : KeepsFrame p (traceOf p c i) := by
  cases i with
  | construct => exact keepsFrame_nil p
  | init r => exact keepsFrame_initTrace hd c r
  | setWindow x0 y0 x1 y1 =>
    exact ((keepsFrame_casetTrace hd x0 x1).append (keepsFrame_rasetTrace hd y0 y1)).append
      (keepsFrame_command p p.cmds.ramwr)
  | colmod b => exact keepsFrame_colmod hd b
  | madctl b => exact keepsFrame_madctl hd b
  | caset x0 x1 => exact keepsFrame_casetTrace hd x0 x1
  | raset y0 y1 => exact keepsFrame_rasetTrace hd y0 y1
  | writeCommand | swreset | slpout | invoff | invon | dispon => exact keepsFrame_command p _
  | fillScreen | fillRect | drawPixel | writeData | writeDataBuf | pixelStream | ramwr =>
    simp [Instr.sendsNoPixel] at h

theorem length_flatMap_enc16 (px : List Word16) : (px.flatMap enc16).length = 2 * px.length := by
  simp [List.length_flatMap, Nat.mul_comm]

/-- RAMWR and its pixels store from the window's start on (44_controller.md R156, R157). -/
theorem Ctl.ramwrTrace_stores {p : Params} (hd : p.cmds.Distinct) {px : List Word16} {o : Ctl}
    (h : (o.run p (ramwrTrace p px)).bad = false) {a : Nat}
    (ha : OutsideCells (Ctl.storedCells { o with
        cmd := .cmd .ramwr, half := .known none, cx := o.xs.map BitVec.toNat, cy := o.ys.map BitVec.toNat }
      (2 * px.length)) a) :
    (o.run p (ramwrTrace p px)).fb.read a = o.fb.read a := by
  rw [ramwrTrace, Ctl.run_append] at h ⊢
  have hcmd := Ctl.good_of_run_good h
  have hkeep := keepsFrame_command p p.cmds.ramwr o hcmd a
  by_cases hpx : px = []
  · rw [if_pos hpx]
    exact hkeep
  · rw [if_neg hpx] at h ⊢
    have hrun := Ctl.run_command_txn (Ctl.run_command_txn_good hcmd).1 (p.cmds.cmdOf_byteOf hd .ramwr)
    refine (Ctl.data_txn_stores h ?_).trans hkeep
    rw [length_flatMap_enc16, writeCommandTrace]
    exact hrun ▸ ha

end Sys2Proof.Machine

open Sys2Proof Sys2Proof.Machine

/-- Settles O56: every trace without pixels is made of commands, their parameters and events that send nothing,
and none of these stores. -/
theorem formsWithoutPixelsKeepTheFrameMemory : Obligations.FormsWithoutPixelsKeepTheFrameMemory := by
  rintro i s t ⟨⟨-, -, hhang⟩, -, -, hpar, -⟩ hi hx - hgood a
  rw [exec_ctl hhang hx] at hgood ⊢
  exact keepsFrame_traceOf hpar.1 s.cfg hi s.ctl hgood a

/-- Settles O57: each form is one data transaction of `n` bytes. -/
theorem dataTransactionsStoreAtTheCursorAlone : Obligations.DataTransactionsStoreAtTheCursorAlone := by
  rintro s t i n ⟨⟨-, -, hhang⟩, -⟩ hi hx - hgood a ha
  rw [exec_ctl hhang hx] at hgood ⊢
  rcases hi with ⟨b, rfl, rfl⟩ | ⟨bytes, rfl, rfl⟩ | ⟨hi, lo, k, rfl, rfl⟩
  · exact Ctl.data_txn_stores hgood ha
  · exact Ctl.data_txn_stores hgood ha
  · exact Ctl.data_txn_stores hgood (by rwa [length_pixelBytes])

/-- Settles O59: the command byte puts the cursor at the window's start, and one data transaction follows. -/
theorem ramwrStoresFromTheWindowStart : Obligations.RamwrStoresFromTheWindowStart := by
  rintro s t px ⟨⟨-, -, hhang⟩, -, -, hpar, -⟩ hx - hgood a ha
  rw [exec_ctl hhang hx] at hgood ⊢
  exact Ctl.ramwrTrace_stores hpar.1 hgood ha

/-- Settles O60: each drawing request is a FILL_RECT, whose pixels fill exactly its clipped rectangle. -/
theorem drawingStoresInItsRectangleAlone : Obligations.DrawingStoresInItsRectangleAlone := by
  rintro s t i x y w h ⟨⟨-, -, hhang⟩, -, -, hpar, -⟩ hi hx - hgood a ha
  rw [exec_ctl hhang hx] at hgood ⊢
  rcases hi with ⟨color, rfl⟩ | ⟨color, rfl, rfl, rfl, rfl, rfl⟩ | ⟨color, rfl, rfl, rfl⟩
  · exact Ctl.fillRectTrace_stores hpar.1 hgood ha
  · simp only [traceOf, fillScreenTrace_eq_fillRectTrace] at hgood ⊢
    exact Ctl.fillRectTrace_stores hpar.1 hgood ha
  · simp only [traceOf, drawPixelTrace_eq_fillRectTrace] at hgood ⊢
    exact Ctl.fillRectTrace_stores hpar.1 hgood ha
end


section
/-! PROOF. The trace: what an advance, and so a step, appends to it. -/

namespace Sys2Proof.Machine

@[simp] theorem emitAll_trace (es : List Event) (s : State) : (emitAll es s).trace = s.trace ++ es := by
  simp [emitAll_fields]

/-- An advance appends the events it performs (20_memory.md R58), whether it finishes or stops at a later one. -/
theorem Advances.trace_prefix {i : Instr} {u t : State} (h : Advances i u t) : u.trace <+: t.trace := by
  rcases h with rfl | ⟨es, n, -, -, rfl⟩
  · exact ⟨u.remaining, by simp⟩
  · exact ⟨es, by simp⟩

end Sys2Proof.Machine

open Sys2Proof Sys2Proof.Machine

/-- Settles O13: a step changes nothing or lets an operation advance, and accepting one leaves the trace alone. -/
theorem traceOnlyGrows : Obligations.TraceOnlyGrows := by
  intro s t hstep
  rcases step_cases hstep with rfl | ⟨i, k, -, ha⟩ | ⟨w, rest, i, -, -, -, ha⟩
  · exact List.prefix_rfl
  · exact ha.trace_prefix
  · simpa using ha.trace_prefix
end


section
/-! PROOF. Encodings: the decoder on what the encoder writes at each of the three levels, the request words it
refuses, and the command bytes a request sends. -/

namespace Sys2Proof

/-! The fields of a request word, against the wider bit ranges of 30_encoding.md R85. -/

theorem append_eq_zero_iff {m n : Nat} {x : BitVec m} {y : BitVec n} : x ++ y = 0 ↔ x = 0 ∧ y = 0 := by
  refine ⟨fun h => ⟨?_, ?_⟩, ?_⟩
  · rw [← BitVec.extractLsb'_append_eq_left (a := x) (b := y), h]
    exact BitVec.extractLsb'_zero
  · rw [← BitVec.extractLsb'_append_eq_right (a := x) (b := y), h]
    exact BitVec.extractLsb'_zero
  · rintro ⟨rfl, rfl⟩
    exact BitVec.zero_append_zero

theorem extract_9_7_eq_zero_iff (q : RequestWord) : q.extractLsb' 9 7 = 0 ↔ reqRsv q >>> 1 = 0 := by
  have h : (q.extractLsb' 9 7).toNat = (reqRsv q >>> 1).toNat := by
    simp only [reqRsv, BitVec.extractLsb'_toNat, BitVec.toNat_ushiftRight, Nat.shiftRight_eq_div_pow]
    omega
  rw [← BitVec.toNat_inj, ← BitVec.toNat_inj, h]
  rfl

theorem extract_64_32_eq_zero_iff (q : RequestWord) : q.extractLsb' 64 32 = 0 ↔ reqD q = 0 ∧ reqE q = 0 := by
  have h : reqE q ++ reqD q = q.extractLsb' 64 32 :=
    BitVec.extractLsb'_append_extractLsb'_eq_extractLsb' (len₁ := 16) (len₂ := 16) rfl
  rw [← h]
  exact append_eq_zero_iff.trans and_comm

theorem extract_48_48_eq_zero_iff (q : RequestWord) :
    q.extractLsb' 48 48 = 0 ↔ reqC q = 0 ∧ reqD q = 0 ∧ reqE q = 0 := by
  have h : q.extractLsb' 64 32 ++ reqC q = q.extractLsb' 48 48 :=
    BitVec.extractLsb'_append_extractLsb'_eq_extractLsb' (len₁ := 16) (len₂ := 32) rfl
  rw [← h, ← extract_64_32_eq_zero_iff]
  exact append_eq_zero_iff.trans and_comm

theorem extract_32_64_eq_zero_iff (q : RequestWord) :
    q.extractLsb' 32 64 = 0 ↔ reqB q = 0 ∧ reqC q = 0 ∧ reqD q = 0 ∧ reqE q = 0 := by
  have h : q.extractLsb' 48 48 ++ reqB q = q.extractLsb' 32 64 :=
    BitVec.extractLsb'_append_extractLsb'_eq_extractLsb' (len₁ := 16) (len₂ := 48) rfl
  rw [← h, ← extract_48_48_eq_zero_iff]
  exact append_eq_zero_iff.trans and_comm

/-- The bit rate of an INIT word (30_encoding.md R69). -/
theorem reqB_append_reqA (q : RequestWord) : reqB q ++ reqA q = q.extractLsb' 16 32 :=
  BitVec.extractLsb'_append_extractLsb'_eq_extractLsb' (len₁ := 16) (len₂ := 16) rfl

/-- The reserved byte of an accepted CONSTRUCT word is its `invert` bit. -/
theorem byte_of_lowest_bit {v : Byte} (h : v >>> 1 = 0) : (if v.getLsbD 0 then 0x01 else 0x00) = v := by
  have hcases : v = 0 ∨ v = 1 := by bv_omega
  rcases hcases with rfl | rfl <;> rfl

/-! Requests: what is decoded is what was encoded, both ways. -/

/-- A well-formed request's word decodes to it (30_encoding.md R66, R67). -/
theorem decodeRequest_of_encode {t : CmdTable} {i : Instr} {q : RequestWord} (hwf : i.wf = true)
    (he : encode t i = .request q) : decodeRequest q = .ok i := by
  cases i with
  | construct cs dc rst sck mosi invert =>
    cases he
    cases invert <;> simp [decodeRequest]
  | init r =>
    cases he
    have hr : r ≠ 0 := by simpa [Instr.wf] using hwf
    simpa [decodeRequest] using hr
  | fillScreen | fillRect | drawPixel =>
    cases he
    simp [decodeRequest]
  | _ => cases he

/-- A word the request decoder accepts is the word of a well-formed request (30_encoding.md R85): each branch that
accepts has checked every field the request does not list. -/
theorem encode_of_decodeRequest (t : CmdTable) {i : Instr} {q : RequestWord} (h : decodeRequest q = .ok i) :
    i.isRequest = true ∧ i.wf = true ∧ encode t i = .request q := by
  have hq := requestWord_fields q
  unfold decodeRequest at h
  split_ifs at h with h0 hrsv h1 hrsv hrate h2 hrsv h3 hrsv h4 hrsv <;>
    obtain rfl := Except.ok.inj h <;> simp only [not_or, not_not] at hrsv
  · refine ⟨rfl, rfl, congrArg Presented.request ?_⟩
    rw [byte_of_lowest_bit hrsv, ← h0, hq]
  · refine ⟨rfl, bne_iff_ne.2 hrate, congrArg Presented.request ?_⟩
    rw [BitVec.extractLsb'_append_eq_right, BitVec.extractLsb'_append_eq_left]
    simpa [h1, hrsv] using hq
  · exact ⟨rfl, rfl, congrArg Presented.request (by simpa [h2, hrsv] using hq)⟩
  · exact ⟨rfl, rfl, congrArg Presented.request (by simpa [h3, hrsv] using hq)⟩
  · exact ⟨rfl, rfl, congrArg Presented.request (by simpa [h4, hrsv] using hq)⟩

theorem decodeRequest_reservedOpcode {q : RequestWord} (h : 5 ≤ (reqOp q).toNat) :
    decodeRequest q = .error .reservedOpcode := by
  have hop (n : Byte) (hn : n.toNat < 5) : reqOp q ≠ n := fun he => by
    rw [he] at h
    omega
  simp only [decodeRequest, hop 0 (by decide), hop 1 (by decide), hop 2 (by decide), hop 3 (by decide),
    hop 4 (by decide), if_false]

/-! Micro-ops: the count bytes, and the arguments read back (Log 6). -/

/-- A count of 1 to 2^24 is three bytes that read back as it. -/
theorem countBytes_eq {n : Nat} (hpos : 1 ≤ n) (hmax : n ≤ maxBuffer) :
    ∃ c2 c1 c0, countBytes n = [c2, c1, c0] ∧ countOf c2 c1 c0 = n := by
  refine ⟨_, _, _, rfl, ?_⟩
  have hhigh (v : BitVec 24) : v.extractLsb' 16 8 ++ v.extractLsb' 8 8 = v.extractLsb' 8 16 :=
    BitVec.extractLsb'_append_extractLsb'_eq_extractLsb' (len₁ := 8) (len₂ := 8) rfl
  have hall (v : BitVec 24) : v.extractLsb' 8 16 ++ v.extractLsb' 0 8 = v :=
    (BitVec.extractLsb'_append_extractLsb'_eq_extractLsb' (len₁ := 8) (len₂ := 16) rfl).trans
      BitVec.extractLsb'_eq_self
  unfold maxBuffer at hmax
  rw [countOf, hhigh, hall, BitVec.toNat_ofNat]
  omega

theorem decodeMicro_of_encode {t : CmdTable} {i : Instr} {bytes : List Byte} (hwf : i.wf = true)
    (he : encode t i = .micro bytes) : decodeMicro bytes = .ok i := by
  cases i with
  | writeCommand | writeData =>
    cases he
    rfl
  | writeDataBuf bs =>
    cases he
    obtain ⟨hpos, hmax⟩ : 1 ≤ bs.length ∧ bs.length ≤ maxBuffer := by simpa [Instr.wf] using hwf
    obtain ⟨c2, c1, c0, hbytes, hcount⟩ := countBytes_eq hpos hmax
    simp [decodeMicro, hbytes, hcount]
  | setWindow =>
    cases he
    simp [decodeMicro, enc16]
  | pixelStream hi lo n =>
    cases he
    obtain ⟨hpos, hmax⟩ : 1 ≤ n ∧ n ≤ maxPixels := by simpa [Instr.wf] using hwf
    obtain ⟨c2, c1, c0, hbytes, hcount⟩ := countBytes_eq hpos (hmax.trans (by decide))
    simp [decodeMicro, hbytes, hcount, hmax]
  | _ => cases he

/-! Commands: the byte names its command, and the data bytes are its parameters or pixels. -/

/-- With distinct bytes each field of the table names its command (30_encoding.md R76). -/
theorem CmdTable.Distinct.cmdOf_bytes {t : CmdTable} (h : t.Distinct) :
    t.cmdOf t.swreset = some .swreset ∧ t.cmdOf t.slpout = some .slpout ∧ t.cmdOf t.colmod = some .colmod ∧
    t.cmdOf t.madctl = some .madctl ∧ t.cmdOf t.invoff = some .invoff ∧ t.cmdOf t.invon = some .invon ∧
    t.cmdOf t.dispon = some .dispon ∧ t.cmdOf t.caset = some .caset ∧ t.cmdOf t.raset = some .raset ∧
    t.cmdOf t.ramwr = some .ramwr :=
  have hcmd := t.cmdOf_byteOf h
  ⟨hcmd .swreset, hcmd .slpout, hcmd .colmod, hcmd .madctl, hcmd .invoff, hcmd .invon, hcmd .dispon,
    hcmd .caset, hcmd .raset, hcmd .ramwr⟩

@[simp] theorem pixelsOf_flatMap_enc16 (px : List Word16) : pixelsOf (px.flatMap enc16) = some px := by
  induction px with
  | nil => rfl
  | cons v px ih => simp [enc16, pixelsOf, ih]

theorem decodeCommand_of_encode {t : CmdTable} (hd : t.Distinct) {i : Instr} {code : Byte} {data : List Byte}
    (he : encode t i = .command code data) : decodeCommand t code data = i := by
  cases i with
  | swreset | slpout | colmod | madctl | invoff | invon | dispon | ramwr =>
    cases he
    simp [decodeCommand, commandOf, hd.cmdOf_bytes]
  | caset | raset =>
    cases he
    simp [decodeCommand, commandOf, hd.cmdOf_bytes, encPair, enc16]
  | _ => cases he

end Sys2Proof

namespace Sys2Proof.Machine

/-! The command bytes of a trace: those of the transactions with mode-select low (30_encoding.md R73). -/

@[simp] theorem commandBytes_tx_append (m : Level) (bytes : List Byte) (es : List Event) :
    commandBytes m (bytes.map .tx ++ es) = (if m = .low then bytes else []) ++ commandBytes m es := by
  induction bytes with
  | nil => simp
  | cons b bytes ih => cases m <;> simp [commandBytes, ih]

@[simp] theorem commandBytes_txn_append (p : Params) (m mode : Level) (bytes : List Byte) (es : List Event) :
    commandBytes m (txn p mode bytes ++ es) = (if mode = .low then bytes else []) ++ commandBytes mode es := by
  simp [txn, commandBytes]

@[simp] theorem commandBytes_txn (p : Params) (m mode : Level) (bytes : List Byte) :
    commandBytes m (txn p mode bytes) = if mode = .low then bytes else [] := by
  simpa [commandBytes] using commandBytes_txn_append p m mode bytes []

theorem commandBytes_initTrace (p : Params) (c : Cfg) (r : BitRate) (m : Level) :
    commandBytes m (initTrace p c r) =
      [p.cmds.swreset, p.cmds.slpout, p.cmds.colmod, p.cmds.madctl,
        if c.invert then p.cmds.invon else p.cmds.invoff, p.cmds.dispon] := by
  simp [initTrace, resetPulseTrace, oneParamTrace, writeCommandTrace, writeDataTrace, commandBytes]

/-- FILL_RECT's command bytes are the three of its window, none where it is clipped away. -/
theorem commandBytes_fillRectTrace (p : Params) (x y w h color : Word16) (m : Level) :
    commandBytes m (fillRectTrace p x y w h color) =
      if (clipRect x y w h).isSome then [p.cmds.caset, p.cmds.raset, p.cmds.ramwr] else [] := by
  unfold fillRectTrace
  split
  next hq => simp [hq, commandBytes]
  next q hq =>
    simp [hq, setWindowTrace, casetTrace, rasetTrace, pixelStreamTrace, writeCommandTrace, writeDataBufTrace]

theorem commandBytes_fillRectTrace_subset (p : Params) (x y w h color : Word16) (m : Level) :
    commandBytes m (fillRectTrace p x y w h color) ⊆ [p.cmds.caset, p.cmds.raset, p.cmds.ramwr] := by
  rw [commandBytes_fillRectTrace]
  split
  · exact List.Subset.refl _
  · exact List.nil_subset _

/-- Each drawing request is a FILL_RECT (43_drawing.md R133, R138). -/
theorem commandBytes_drawing_subset (p : Params) (c : Cfg) (m : Level) {i : Instr} (hi : i.isDrawing = true) :
    commandBytes m (traceOf p c i) ⊆ [p.cmds.caset, p.cmds.raset, p.cmds.ramwr] := by
  cases i with
  | fillScreen color =>
    rw [traceOf, fillScreenTrace_eq_fillRectTrace]
    exact commandBytes_fillRectTrace_subset ..
  | fillRect => exact commandBytes_fillRectTrace_subset ..
  | drawPixel x y color =>
    rw [traceOf, drawPixelTrace_eq_fillRectTrace]
    exact commandBytes_fillRectTrace_subset ..
  | _ => cases hi

theorem whenConstructed_refused {s : State} (hidle : s.seq = .idle) (hc : s.constructed = false) (t : State) :
    whenConstructed s t = .refused .notConstructed := by
  simp [whenConstructed, hidle, hc]

end Sys2Proof.Machine

open Sys2Proof Sys2Proof.Machine

/-- Settles O1: by the level the encoder writes at; the decoder of that level reads it back. -/
theorem decodeOfEncodeIsTheInstruction : Obligations.DecodeOfEncodeIsTheInstruction := by
  intro t i hd hwf
  cases he : encode t i with
  | request q => exact decodeRequest_of_encode hwf he
  | micro bytes => exact decodeMicro_of_encode hwf he
  | command code data => exact congrArg Except.ok (decodeCommand_of_encode hd he)

/-- Settles O2: encoder and decoder agree both ways, and each named refusal is a check of the word's fields. -/
theorem requestDecoding : Obligations.RequestDecoding := by
  intro t q
  refine ⟨fun i => ⟨encode_of_decodeRequest t, fun ⟨_, hwf, he⟩ => decodeRequest_of_encode hwf he⟩,
    decodeRequest_reservedOpcode, ?_⟩
  have hop : q.extractLsb' 0 8 = reqOp q := rfl
  have hrsv : q.extractLsb' 8 8 = reqRsv q := rfl
  simp only [hop, hrsv, ne_eq, extract_9_7_eq_zero_iff, extract_64_32_eq_zero_iff, extract_48_48_eq_zero_iff,
    extract_32_64_eq_zero_iff, ← reqB_append_reqA, not_and_or]
  refine ⟨fun h hbits => ?construct, fun h hbits => ?init, fun h h8 hce hrate => ?zeroRate,
    fun h hbits => ?fillScreen, fun h hbits => ?fillRect, fun h hbits => ?drawPixel⟩
  case zeroRate => simp [decodeRequest, h, h8, hce, hrate]
  case construct => rw [decodeRequest, if_pos h, if_pos hbits]
  all_goals simp only [decodeRequest, h, ne_eq, hbits, BitVec.reduceEq, if_false, if_true, not_false_eq_true]

/-- Settles O3: each word is decoded by evaluation. -/
theorem wordsOfTheSpecDecode : Obligations.WordsOfTheSpecDecode := by
  unfold Obligations.WordsOfTheSpecDecode
  decide

/-- Settles O24: INIT's rate is checked first of all; the port's own check refuses the others. -/
theorem requestsRefusedByThePort : Obligations.RequestsRefusedByThePort := by
  intro s
  refine ⟨rfl, fun hidle hc r x y w h c hr => ?_⟩
  have href := whenConstructed_refused hidle hc
  exact ⟨(if_neg hr).trans (href _), href _, href _, href _⟩

/-- Settles O36: INIT sends the first six of the nine bytes, a drawing request none but the last three. -/
theorem requestsSendCommandsOfTheTableAlone : Obligations.RequestsSendCommandsOfTheTableAlone := by
  intro p c i m hi b hb
  cases i with
  | construct => cases hb
  | init r =>
    rw [traceOf, commandBytes_initTrace] at hb
    exact List.mem_append_left [p.cmds.caset, p.cmds.raset, p.cmds.ramwr] hb
  | fillScreen | fillRect | drawPixel =>
    exact List.mem_append_right [_, _, _, _, _, _] (commandBytes_drawing_subset p c m rfl hb)
  | _ => cases hi
end


section
/-! PROOF. INIT: its trace as the spec's listing, what the trace leaves of the lines and the bus, and what a
test observes of it. -/

namespace Sys2Proof.Machine

/-! The observers on a transaction (41_framer.md R110). -/

@[simp] theorem bytesSent_tx_append (bytes : List Byte) (es : List Event) :
    bytesSent (bytes.map .tx ++ es) = bytes ++ bytesSent es := by
  induction bytes with
  | nil => rfl
  | cons b bytes ih => exact congrArg (b :: ·) ih

@[simp] theorem bytesSent_txn_append (p : Params) (mode : Level) (bytes : List Byte) (es : List Event) :
    bytesSent (txn p mode bytes ++ es) = bytes ++ bytesSent es := by
  simp [txn, bytesSent]

@[simp] theorem sleepTotal_tx_append (bytes : List Byte) (es : List Event) :
    sleepTotal (bytes.map .tx ++ es) = sleepTotal es := by
  induction bytes with
  | nil => rfl
  | cons b bytes ih => exact ih

@[simp] theorem sleepTotal_txn_append (p : Params) (mode : Level) (bytes : List Byte) (es : List Event) :
    sleepTotal (txn p mode bytes ++ es) = sleepTotal es := by
  simp [txn, sleepTotal]

/-- A transaction drives chip-select active once: it releases it at the other level. -/
@[simp] theorem transactions_txn_append (p : Params) (mode : Level) (bytes : List Byte) (es : List Event) :
    transactions p (txn p mode bytes ++ es) = transactions p es + 1 := by
  have hflip : p.csActive.flip ≠ p.csActive := by cases p.csActive <;> decide
  have htx : (bytes.map Event.tx).count (.set .cs p.csActive) = 0 := by simp [List.count_eq_zero]
  simp [transactions, txn, hflip, htx]

@[simp] theorem transactions_nil (p : Params) : transactions p [] = 0 := rfl

@[simp] theorem transactions_cons_of_ne {p : Params} {e : Event} (h : e ≠ .set .cs p.csActive) (es : List Event) :
    transactions p (e :: es) = transactions p es :=
  List.count_cons_of_ne h

/-! INIT's trace (40_init.md R99). -/

/-- INIT's nine steps as a trace listing (40_init.md R99; 30_encoding.md R84). -/
theorem initTrace_eq_listing (p : Params) (c : Cfg) (r : BitRate) :
    initTrace p c r = listing p c
      [.buscfg r, .outcfg .cs, .outcfg .dc, .outcfg .rst,
        .rst .high, .sleep p.tPwr, .rst .low, .sleep p.tRstLo, .rst .high, .sleep p.tRstRec,
        .c p.cmds.swreset, .sleep p.tSwReset,
        .c p.cmds.slpout, .sleep p.tSlpOut,
        .c p.cmds.colmod, .d [p.colmod16bpp],
        .c p.cmds.madctl, .d [p.madctlNormal],
        .c (if c.invert = true then p.cmds.invon else p.cmds.invoff),
        .c p.cmds.dispon, .sleep p.tDispOn] := by
  simp [initTrace, resetPulseTrace, oneParamTrace, writeCommandTrace, writeDataTrace, listing, Listed.events]

theorem bytesSent_initTrace (p : Params) (c : Cfg) (r : BitRate) :
    bytesSent (initTrace p c r) =
      [p.cmds.swreset, p.cmds.slpout, p.cmds.colmod, p.colmod16bpp, p.cmds.madctl, p.madctlNormal,
        if c.invert then p.cmds.invon else p.cmds.invoff, p.cmds.dispon] := by
  simp [initTrace_eq_listing, listing, Listed.events, bytesSent]

theorem sleepTotal_initTrace (p : Params) (c : Cfg) (r : BitRate) :
    sleepTotal (initTrace p c r) = p.tPwr + p.tRstLo + p.tRstRec + p.tSwReset + p.tSlpOut + p.tDispOn := by
  simp [initTrace_eq_listing, listing, Listed.events, sleepTotal, Nat.add_assoc]

theorem transactions_initTrace (p : Params) (c : Cfg) (r : BitRate) : transactions p (initTrace p c r) = 8 := by
  simp [initTrace_eq_listing, listing, Listed.events]

/-- INIT's first 26 events: bus and lines, the reset pulse, three command transactions with their delays, and
the opening of the first data transaction (40_init.md R103). -/
theorem initTrace_take_26 (p : Params) (c : Cfg) (r : BitRate) :
    (initTrace p c r).take 26 =
      [.busCfg r c.sckId c.mosiId, .outCfg .cs, .outCfg .dc, .outCfg .rst] ++ resetPulseTrace p ++
      txn p .low [p.cmds.swreset] ++ [.sleep p.tSwReset] ++ txn p .low [p.cmds.slpout] ++ [.sleep p.tSlpOut] ++
      txn p .low [p.cmds.colmod] ++ [.set .dc .high, .set .cs p.csActive] := by
  simp [initTrace_eq_listing, listing, Listed.events, resetPulseTrace, txn]

theorem bytesSent_initTrace_take_26 (p : Params) (c : Cfg) (r : BitRate) :
    bytesSent ((initTrace p c r).take 26) = [p.cmds.swreset, p.cmds.slpout, p.cmds.colmod] := by
  simp [initTrace_take_26, resetPulseTrace, bytesSent]

theorem commandBytes_initTrace_take_26 (p : Params) (c : Cfg) (r : BitRate) (m : Level) :
    commandBytes m ((initTrace p c r).take 26) = [p.cmds.swreset, p.cmds.slpout, p.cmds.colmod] := by
  simp [initTrace_take_26, resetPulseTrace, commandBytes]

/-! INIT configures each line and leaves it at the level it drives last, and the bus at its rate
(10_state.md R42). -/

theorem initTrace_leaves_cs (p : Params) (c : Cfg) (r : BitRate) (v : LineState) :
    (initTrace p c r).foldl (fun v e => v.after .cs e) v = ⟨true, .known p.csActive.flip⟩ := by
  simp [initTrace_eq_listing, listing, Listed.events, txn, LineState.after]

theorem initTrace_leaves_dc (p : Params) (c : Cfg) (r : BitRate) (v : LineState) :
    (initTrace p c r).foldl (fun v e => v.after .dc e) v = ⟨true, .known .low⟩ := by
  simp [initTrace_eq_listing, listing, Listed.events, txn, LineState.after]

theorem initTrace_leaves_rst (p : Params) (c : Cfg) (r : BitRate) (v : LineState) :
    (initTrace p c r).foldl (fun v e => v.after .rst e) v = ⟨true, .known .high⟩ := by
  simp [initTrace_eq_listing, listing, Listed.events, txn, LineState.after]

theorem initTrace_leaves_bus (p : Params) (c : Cfg) (r : BitRate) (b : Bus) :
    (initTrace p c r).foldl (fun b e => b.after e) b = .rate r := by
  simp [initTrace_eq_listing, listing, Listed.events, txn, Bus.after]

/-- With every port completing, a trace changes the lines, the bus, the trace and the controller alone. -/
theorem emitAll_eq (es : List Event) {s : State} (hh : s.hang = none) :
    emitAll es s =
      { s with
        trace := s.trace ++ es
        cs := es.foldl (fun v e => v.after .cs e) s.cs
        dc := es.foldl (fun v e => v.after .dc e) s.dc
        rst := es.foldl (fun v e => v.after .rst e) s.rst
        bus := es.foldl (fun b e => b.after e) s.bus
        ctl := s.ctl.run s.par es } := by
  induction es generalizing s with
  | nil => simp [emitAll, Ctl.run]
  | cons e es ih =>
    rw [emitAll, ih (by simp [hh])]
    simp [emit, Ctl.run, hh]

theorem emitAll_initTrace {s : State} (hh : s.hang = none) (r : BitRate) :
    emitAll (initTrace s.par s.cfg r) s =
      { s.afterTxns .low (initTrace s.par s.cfg r) with
        bus := .rate r
        cs := ⟨true, .known s.par.csActive.flip⟩
        dc := ⟨true, .known .low⟩
        rst := ⟨true, .known .high⟩ } := by
  rw [emitAll_eq _ hh, initTrace_leaves_cs, initTrace_leaves_dc, initTrace_leaves_rst, initTrace_leaves_bus,
    State.afterTxns]

/-- INIT's entry check marks a second INIT and changes nothing else (40_init.md R89). -/
theorem initEntry_eq (s : State) :
    initEntry s = { s with ubMarks := s.ubMarks ++ if s.drv = .ready then [.initTwice] else [] } := by
  unfold initEntry
  split
  next h => rw [if_pos h, State.markUb]
  next h => rw [if_neg (by simp [h]), List.append_nil]

/-- A nonzero rate on a fresh machine: the entry check, the whole trace, the final update (40_init.md R99). -/
theorem exec_init_of_fresh {s : State} (hs : s.Fresh) {r : BitRate} (hr : r ≠ 0) :
    exec (.init r) s = .next (finish (.init r) (emitAll (initTrace s.par s.cfg r) (initEntry s))) := by
  have ⟨_, _, hh⟩ := hs
  calc exec (.init r) s
      _ = whenConstructed s (perform (.init r) s) := if_neg hr
      _ = .next (perform (.init r) s) := whenConstructed_of_fresh hs _
      _ = _ := congrArg _ (perform_completes (.init r) hh)

end Sys2Proof.Machine

open Sys2Proof Sys2Proof.Machine

/-- Settles O21: a nonzero rate is taken by the port; the entry check marks, the nine steps drive the lines and
configure the bus, and the final update is READY and IDLE. -/
theorem initRunsTheNineSteps : Obligations.InitRunsTheNineSteps := by
  intro s r hs
  have ⟨hidle, _, hh⟩ := hs
  split
  next hr => exact if_pos hr
  next hr =>
    have hrun := emitAll_initTrace (s := initEntry s) (by simpa using hh) r
    rw [initEntry_par, initEntry_cfg] at hrun
    rw [exec_init_of_fresh hs hr, hrun, initEntry_eq, initTrace_eq_listing]
    simp [finish, State.afterTxns, hidle]

/-- Settles O22: the kinds and the byte at index 26 are read off the listing's 45 events; the bytes are those of
its transactions. -/
theorem initTraceCounts : Obligations.InitTraceCounts := by
  intro p c r
  refine ⟨?length, ?busCfg, ?outCfg, ?rst, ?sleep, ?tx, ?lines, transactions_initTrace p c r,
    commandBytes_initTrace p c r, bytesSent_initTrace p c r, fun m => ?beforeData,
    bytesSent_initTrace_take_26 p c r, ?dataByte⟩
  case beforeData => rw [commandBytes_initTrace_take_26, bytesSent_initTrace_take_26]
  all_goals simp [initTrace_eq_listing, listing, Listed.events, txn]

/-- Settles O23: the six delays are six parameters, each with its minimum (40_init.md R101). -/
theorem initDelaysSumTo670 : Obligations.InitDelaysSumTo670 := by
  refine ⟨fun c r => sleepTotal_initTrace defaultParams c r, fun p c r hp => ?_⟩
  obtain ⟨-, hpwr, hrstLo, hrstRec, hswReset, hslpOut, hdispOn⟩ := hp
  rw [sleepTotal_initTrace]
  omega

end


section
/-! PROOF. The framer: the bytes it sends, a transaction as an instruction's whole effect, two transactions against
one, and the framing of every trace. -/

namespace Sys2Proof

/-! The bytes of a colour (41_framer.md R116) and its three components (R117), as numbers. -/

theorem hiByte_toNat (c : Word16) : (hiByte c).toNat = c.toNat >>> 8 := by
  rw [hiByte, BitVec.extractLsb'_toNat, Nat.shiftRight_eq_div_pow]
  omega

theorem loByte_toNat (c : Word16) : (loByte c).toNat = c.toNat &&& 0xFF := by
  rw [loByte, BitVec.extractLsb'_toNat, Nat.shiftRight_zero]
  exact (Nat.and_two_pow_sub_one_eq_mod c.toNat 8).symm

theorem hiByte_shiftLeft_or_loByte (c : Word16) : (hiByte c).toNat <<< 8 ||| (loByte c).toNat = c.toNat := by
  rw [← BitVec.toNat_append]
  exact congrArg BitVec.toNat (join16_hiByte_loByte c)

theorem rgb565_red_toNat (c : Word16) : (rgb565 c).red.toNat = c.toNat / 2048 := by
  simp only [rgb565, BitVec.extractLsb'_toNat, Nat.shiftRight_eq_div_pow]
  omega

theorem rgb565_green_toNat (c : Word16) : (rgb565 c).green.toNat = c.toNat / 32 % 64 := by
  simp only [rgb565, BitVec.extractLsb'_toNat, Nat.shiftRight_eq_div_pow, Nat.reducePow]

theorem rgb565_blue_toNat (c : Word16) : (rgb565 c).blue.toNat = c.toNat % 32 := by
  simp only [rgb565, BitVec.extractLsb'_toNat, Nat.shiftRight_zero, Nat.reducePow]

end Sys2Proof

namespace Sys2Proof.Machine

/-! A micro-op or a command performed is its events performed: it marks nothing and has no final update but IDLE. -/

theorem entryMarks_of_not_request {i : Instr} (hi : i.isRequest = false) (s : State) : entryMarks i s = s := by
  cases i with
  | construct | init | fillScreen | fillRect | drawPixel => cases hi
  | _ => rfl

theorem finish_of_not_request {i : Instr} (hi : i.isRequest = false) (s : State) :
    finish i s = { s with seq := .idle } := by
  cases i with
  | construct | init | fillScreen | fillRect | drawPixel => cases hi
  | _ => rfl

theorem perform_of_not_request {i : Instr} (hi : i.isRequest = false) {s : State} (hidle : s.seq = .idle)
    (hh : s.hang = none) : perform i s = emitAll (traceOf s.par s.cfg i) s := by
  have hseq : (emitAll (traceOf s.par s.cfg i) s).seq = .idle := by simp [emitAll_fields, hidle]
  rw [perform_completes i hh, entryMarks_of_not_request hi, finish_of_not_request hi, ← hseq]

/-- An idle machine performs a micro-op or a command of one transaction as that transaction (41_framer.md R110). -/
theorem whenIdle_perform_txn {i : Instr} (hi : i.isRequest = false) {s : State} (hidle : s.seq = .idle)
    (hh : s.hang = none) {mode : Level} {bytes : List Byte}
    (htr : traceOf s.par s.cfg i = txn s.par mode bytes) :
    whenIdle s (perform i s) = .next (s.afterTxns mode (txn s.par mode bytes)) := by
  rw [whenIdle_of_idle hidle, perform_of_not_request hi hidle hh, htr, emitAll_txn rfl hh]

/-! To the controller one transaction of two runs is like one of each (41_framer.md R113). -/

theorem Ctl.receiveAll_append (p : Params) (l₁ l₂ : List Byte) (o : Ctl) :
    o.receiveAll p (l₁ ++ l₂) = (o.receiveAll p l₁).receiveAll p l₂ := by
  simp [Ctl.receiveAll, Ctl.run_append]

theorem Ctl.linesKept_event_tx (p : Params) (b : Byte) (o : Ctl) : o.LinesKept (o.event p (.tx b)) := by
  unfold Ctl.event
  split
  · exact .inr ⟨rfl, rfl, rfl⟩
  · exact o.linesKept_receive p b

/-- The bytes of a transaction change no line (44_controller.md R143). -/
theorem Ctl.linesKept_receiveAll (p : Params) (bytes : List Byte) (o : Ctl) :
    o.LinesKept (o.receiveAll p bytes) := by
  induction bytes generalizing o with
  | nil => exact .inr ⟨rfl, rfl, rfl⟩
  | cons b bs ih =>
    rw [Ctl.receiveAll_cons]
    rcases o.linesKept_event_tx p b with hbroken | ⟨hcs, hdc, hrst⟩
    · exact .inl (by rw [hbroken]; exact Ctl.run_of_bad p _ rfl)
    · rcases ih (o.event p (.tx b)) with hbroken | ⟨hcs', hdc', hrst'⟩
      · exact .inl hbroken
      · exact .inr ⟨hcs'.trans hcs, hdc'.trans hdc, hrst'.trans hrst⟩

/-- Inside a transaction, chip-select released and another transaction opened in the same mode leave the controller
as it was. -/
theorem Ctl.event_reopen {p : Params} {mode : Level} {o : Ctl} (hcs : o.cs = .known p.csActive)
    (hdc : o.dc = .known mode) :
    ((o.event p (.set .cs p.csActive.flip)).event p (.set .dc mode)).event p (.set .cs p.csActive) = o := by
  cases hb : o.bad with
  | true => simp only [Ctl.event_of_bad p _ hb]
  | false =>
    cases o
    simp_all [Ctl.event]

/-- The same after any bytes of the transaction, which may have broken the controller. -/
theorem Ctl.event_reopen_receiveAll {p : Params} {mode : Level} {o : Ctl} (hcs : o.cs = .known p.csActive)
    (hdc : o.dc = .known mode) (bytes : List Byte) :
    (((o.receiveAll p bytes).event p (.set .cs p.csActive.flip)).event p (.set .dc mode)).event p
      (.set .cs p.csActive) = o.receiveAll p bytes := by
  rcases o.linesKept_receiveAll p bytes with hbroken | ⟨hcs', hdc', -⟩
  · rw [hbroken]
    rfl
  · exact Ctl.event_reopen (hcs'.trans hcs) (hdc'.trans hdc)

theorem Ctl.run_txn_append (p : Params) (mode : Level) (l₁ l₂ : List Byte) (o : Ctl) :
    o.run p (txn p mode (l₁ ++ l₂)) = o.run p (txn p mode l₁ ++ txn p mode l₂) := by
  cases hb : o.bad with
  | true => rw [Ctl.run_of_bad p _ hb, Ctl.run_of_bad p _ hb]
  | false =>
    have hopen : (o.event p (.set .dc mode)).event p (.set .cs p.csActive) =
        { o with cs := .known p.csActive, dc := .known mode } := by
      simp [Ctl.event, hb]
    rw [Ctl.run_append, Ctl.run_txn, Ctl.run_txn, Ctl.run_txn, Ctl.receiveAll_append, hopen,
      Ctl.event_reopen_receiveAll rfl rfl]

/-! Every trace is a listing (30_encoding.md R84). -/

/-- The events of a whole trace listing. -/
def Listable (p : Params) (c : Cfg) (es : List Event) : Prop := ∃ items, es = listing p c items

theorem listable_nil (p : Params) (c : Cfg) : Listable p c [] := ⟨[], rfl⟩

theorem Listable.append {p : Params} {c : Cfg} {es fs : List Event} (he : Listable p c es)
    (hf : Listable p c fs) : Listable p c (es ++ fs) := by
  obtain ⟨items, rfl⟩ := he
  obtain ⟨items', rfl⟩ := hf
  exact ⟨items ++ items', List.flatMap_append.symm⟩

theorem listable_command (p : Params) (c : Cfg) (b : Byte) : Listable p c (txn p .low [b]) :=
  ⟨[.c b], (List.append_nil _).symm⟩

theorem listable_data (p : Params) (c : Cfg) (bytes : List Byte) : Listable p c (txn p .high bytes) :=
  ⟨[.d bytes], (List.append_nil _).symm⟩

/-- A command with its data. -/
theorem listable_command_data (p : Params) (c : Cfg) (b : Byte) (bytes : List Byte) :
    Listable p c (txn p .low [b] ++ txn p .high bytes) :=
  (listable_command p c b).append (listable_data p c bytes)

theorem listable_setWindowTrace (p : Params) (c : Cfg) (x0 y0 x1 y1 : Word16) :
    Listable p c (setWindowTrace p x0 y0 x1 y1) :=
  ((listable_command_data p c _ _).append (listable_command_data p c _ _)).append (listable_command p c _)

theorem listable_fillRectTrace (p : Params) (c : Cfg) (x y w h color : Word16) :
    Listable p c (fillRectTrace p x y w h color) := by
  unfold fillRectTrace
  split
  · exact listable_nil p c
  · exact (listable_setWindowTrace ..).append (listable_data ..)

theorem listable_ramwrTrace (p : Params) (c : Cfg) (px : List Word16) : Listable p c (ramwrTrace p px) := by
  refine (listable_command p c _).append ?_
  split
  · exact listable_nil p c
  · exact listable_data ..

/-- Every operation's trace is a listing (30_encoding.md R84). -/
theorem listable_traceOf (p : Params) (c : Cfg) (i : Instr) : Listable p c (traceOf p c i) := by
  cases i with
  | construct => exact listable_nil p c
  | init r => exact ⟨_, initTrace_eq_listing p c r⟩
  | fillScreen color => exact listable_fillRectTrace p c 0 0 240 320 color
  | fillRect => exact listable_fillRectTrace ..
  | drawPixel x y color =>
    rw [traceOf, drawPixelTrace_eq_fillRectTrace]
    exact listable_fillRectTrace ..
  | writeCommand | swreset | slpout | invoff | invon | dispon => exact listable_command ..
  | writeData | writeDataBuf | pixelStream => exact listable_data ..
  | colmod | madctl | caset | raset => exact listable_command_data ..
  | setWindow => exact listable_setWindowTrace ..
  | ramwr => exact listable_ramwrTrace ..

/-! The framing check on a listing (41_framer.md R115). -/

/-- Inside a transaction the check counts the bytes. -/
theorem framedFrom_inside_tx_append (p : Params) (mode : Level) (n : Nat) (bytes : List Byte) (es : List Event) :
    framedFrom p (.inside mode n) (bytes.map .tx ++ es) = framedFrom p (.inside mode (n + bytes.length)) es := by
  induction bytes generalizing n with
  | nil => rfl
  | cons b bs ih =>
    calc framedFrom p (.inside mode n) ((b :: bs).map .tx ++ es)
        = framedFrom p (.inside mode (n + 1)) (bs.map .tx ++ es) := rfl
      _ = framedFrom p (.inside mode (n + 1 + bs.length)) es := ih (n + 1)
      _ = framedFrom p (.inside mode (n + (b :: bs).length)) es := by
        rw [List.length_cons, Nat.add_assoc, Nat.add_comm 1]

/-- A transaction in data mode, or of one byte, is framed, and leaves the check outside (41_framer.md R110). -/
theorem framed_txn_append (p : Params) {mode : Level} {bytes : List Byte} (h : mode = .high ∨ bytes.length = 1)
    (es : List Event) : framed p (txn p mode bytes ++ es) = framed p es := by
  have hbytes : framed p (txn p mode bytes ++ es) =
      framedFrom p (.inside mode bytes.length) (.set .cs p.csActive.flip :: es) := by
    simp [framed, txn, framedFrom, framedFrom_inside_tx_append]
  rw [hbytes, framed]
  rcases h with rfl | h
  · simp [framedFrom]
  · simp [framedFrom, h]

/-- Each item of a listing is framed, and leaves the check outside. -/
theorem framed_listed_append (p : Params) (c : Cfg) (item : Listed) (es : List Event) :
    framed p (item.events p c ++ es) = framed p es := by
  cases item with
  | c b => exact framed_txn_append p (.inr rfl) es
  | d | px => exact framed_txn_append p (.inl rfl) es
  | rst | sleep | outcfg | buscfg => rfl

theorem framed_listing (p : Params) (c : Cfg) (items : List Listed) : framed p (listing p c items) = true := by
  induction items with
  | nil => rfl
  | cons item items ih => exact (framed_listed_append p c item _).trans ih

end Sys2Proof.Machine

open Sys2Proof Sys2Proof.Machine

/-- Settles O31: each is one transaction of one byte. -/
theorem oneByteTransactions : Obligations.OneByteTransactions := by
  intro s b hidle hh
  have hcommand : exec (.writeCommand b) s = .next (s.afterTxns .low (txn s.par .low [b])) :=
    whenIdle_perform_txn (i := .writeCommand b) rfl hidle hh rfl
  have hdata : exec (.writeData b) s = .next (s.afterTxns .high (txn s.par .high [b])) :=
    whenIdle_perform_txn (i := .writeData b) rfl hidle hh rfl
  exact ⟨hcommand, hdata⟩

/-- Settles O32: a nonempty list is one data transaction, and to the controller one transaction of two runs is like
one of each. -/
theorem dataBufferInOneTransaction : Obligations.DataBufferInOneTransaction := by
  intro s b bytes
  refine ⟨fun hidle hh => ?_, rfl, fun o l₁ l₂ => Ctl.run_txn_append s.par .high l₁ l₂ o, rfl⟩
  calc exec (.writeDataBuf (b :: bytes)) s
      = if b :: bytes = [] then .refused .emptyBuffer else whenIdle s (perform (.writeDataBuf (b :: bytes)) s) := rfl
    _ = whenIdle s (perform (.writeDataBuf (b :: bytes)) s) := if_neg (List.cons_ne_nil b bytes)
    _ = .next (s.afterTxns .high (txn s.par .high (b :: bytes))) := whenIdle_perform_txn rfl hidle hh rfl

/-- Settles O35: every trace is a listing, and the check is outside a transaction after each item of one. -/
theorem everyTraceIsFramed : Obligations.EveryTraceIsFramed := by
  intro p c i
  obtain ⟨items, hitems⟩ := listable_traceOf p c i
  rw [hitems]
  exact framed_listing p c items

/-- Settles O4: the two bytes and the three components are bit ranges, and joining the bytes gives the colour back. -/
theorem colourAndAddressBytes : Obligations.ColourAndAddressBytes := fun c _ =>
  ⟨hiByte_toNat c, loByte_toNat c, hiByte_shiftLeft_or_loByte c, rgb565_red_toNat c, rgb565_green_toNat c,
    rgb565_blue_toNat c, rfl, rfl⟩

end


section
/-! PROOF. SET_WINDOW: its trace as the spec's listing, its counts, and the ports performing it. -/

namespace Sys2Proof.Machine

/-! One transaction counted (41_framer.md R110). -/

theorem transactions_txn (p : Params) (mode : Level) (bytes : List Byte) :
    transactions p (txn p mode bytes) = 1 := by
  simpa using transactions_txn_append p mode bytes []

theorem bytesSent_txn (p : Params) (mode : Level) (bytes : List Byte) : bytesSent (txn p mode bytes) = bytes := by
  simpa [bytesSent] using bytesSent_txn_append p mode bytes []

/-- A transaction is its bytes and three level changes. -/
theorem length_txn (p : Params) (mode : Level) (bytes : List Byte) :
    (txn p mode bytes).length = bytes.length + 3 := by
  simp [txn]

/-! SET_WINDOW's five transactions. -/

/-- The transactions in order, the pairs as the bytes R122 gives them. -/
theorem setWindowTrace_eq_txns (p : Params) (x0 y0 x1 y1 : Word16) :
    setWindowTrace p x0 y0 x1 y1 =
      txn p .low [p.cmds.caset] ++ (txn p .high [hiByte x0, loByte x0, hiByte x1, loByte x1] ++
        (txn p .low [p.cmds.raset] ++ (txn p .high [hiByte y0, loByte y0, hiByte y1, loByte y1] ++
          txn p .low [p.cmds.ramwr]))) :=
  rfl

/-- Columns, then rows, then the memory write (42_window.md R119; 30_encoding.md R84). -/
theorem setWindowTrace_eq_listing (p : Params) (c : Cfg) (x0 y0 x1 y1 : Word16) :
    setWindowTrace p x0 y0 x1 y1 = listing p c
      [.c p.cmds.caset, .d [hiByte x0, loByte x0, hiByte x1, loByte x1],
        .c p.cmds.raset, .d [hiByte y0, loByte y0, hiByte y1, loByte y1], .c p.cmds.ramwr] := by
  simp [setWindowTrace_eq_txns, listing, Listed.events]

theorem transactions_setWindowTrace (p : Params) (x0 y0 x1 y1 : Word16) :
    transactions p (setWindowTrace p x0 y0 x1 y1) = 5 := by
  simp [setWindowTrace_eq_txns, transactions_txn]

theorem bytesSent_setWindowTrace (p : Params) (x0 y0 x1 y1 : Word16) :
    bytesSent (setWindowTrace p x0 y0 x1 y1) =
      [p.cmds.caset, hiByte x0, loByte x0, hiByte x1, loByte x1,
        p.cmds.raset, hiByte y0, loByte y0, hiByte y1, loByte y1, p.cmds.ramwr] := by
  simp [setWindowTrace_eq_txns, bytesSent_txn]

theorem length_setWindowTrace (p : Params) (x0 y0 x1 y1 : Word16) :
    (setWindowTrace p x0 y0 x1 y1).length = 26 := by
  simp [setWindowTrace_eq_txns, length_txn]

/-- The ports perform the five transactions in order, and mode-select stays low from the memory write. -/
theorem emitAll_setWindowTrace {s : State} (hh : s.hang = none) (x0 y0 x1 y1 : Word16) :
    emitAll (setWindowTrace s.par x0 y0 x1 y1) s = s.afterTxns .low (setWindowTrace s.par x0 y0 x1 y1) :=
  emitAll_txns rfl hh
    [(.low, [s.par.cmds.caset]), (.high, encPair x0 x1), (.low, [s.par.cmds.raset]), (.high, encPair y0 y1)]
    .low [s.par.cmds.ramwr]

end Sys2Proof.Machine

open Sys2Proof Sys2Proof.Machine

/-- Settles O33: an idle machine takes SET_WINDOW and its ports perform the five transactions of its listing, whose
bytes and events are counted transaction by transaction. -/
theorem setWindowProgramsColumnsThenRows : Obligations.SetWindowProgramsColumnsThenRows := by
  intro s x0 y0 x1 y1
  refine ⟨fun hidle hh => ?exec, transactions_setWindowTrace s.par x0 y0 x1 y1, ?bytes,
    length_setWindowTrace s.par x0 y0 x1 y1⟩
  case exec =>
    rw [← setWindowTrace_eq_listing]
    calc exec (.setWindow x0 y0 x1 y1) s
        = whenIdle s (perform (.setWindow x0 y0 x1 y1) s) := rfl
      _ = .next (perform (.setWindow x0 y0 x1 y1) s) := whenIdle_of_idle hidle _
      _ = .next (emitAll (setWindowTrace s.par x0 y0 x1 y1) s) :=
        congrArg _ (perform_of_not_request (i := .setWindow x0 y0 x1 y1) rfl hidle hh)
      _ = .next (s.afterTxns .low (setWindowTrace s.par x0 y0 x1 y1)) :=
        congrArg _ (emitAll_setWindowTrace hh x0 y0 x1 y1)
  case bytes =>
    rw [bytesSent_setWindowTrace]
    rfl

end


section
/-! PROOF. Drawing: what a drawing request emits and answers, and the cells RAMWR's pixels go to. -/

namespace Sys2Proof.Machine

/-! A drawing request performed: the entry check, its events, IDLE (43_drawing.md R125). -/

/-- The entry check marks a drawing before INIT (43_drawing.md R125). -/
theorem drawEntry_ubMarks (s : State) :
    (drawEntry s).ubMarks = s.ubMarks ++ if s.drv = .unconfigured then [.drawBeforeInit] else [] := by
  unfold drawEntry
  split
  next h => rw [if_pos h, State.markUb_ubMarks]
  next h => rw [if_neg (by simp [h]), List.append_nil]

/-- The entry check changes the marks alone. -/
theorem drawEntry_eq (s : State) : drawEntry s = { s with ubMarks := (drawEntry s).ubMarks } := by
  unfold drawEntry
  split <;> rfl

theorem entryMarks_of_drawing {i : Instr} (hi : i.isDrawing = true) (s : State) : entryMarks i s = drawEntry s := by
  cases i with
  | fillScreen | fillRect | drawPixel => rfl
  | _ => cases hi

theorem finish_of_drawing {i : Instr} (hi : i.isDrawing = true) (s : State) : finish i s = { s with seq := .idle } := by
  cases i with
  | fillScreen | fillRect | drawPixel => rfl
  | _ => cases hi

theorem exec_of_drawing {i : Instr} (hi : i.isDrawing = true) (s : State) :
    exec i s = whenConstructed s (perform i s) := by
  cases i with
  | fillScreen | fillRect | drawPixel => rfl
  | _ => cases hi

/-- A drawing request reads the parameters and its operands, never the configuration (43_drawing.md R139). -/
theorem traceOf_of_drawing {i : Instr} (hi : i.isDrawing = true) (p : Params) (c c' : Cfg) :
    traceOf p c i = traceOf p c' i := by
  cases i with
  | fillScreen | fillRect | drawPixel => rfl
  | _ => cases hi

theorem perform_of_drawing {i : Instr} (hi : i.isDrawing = true) {s : State} (hh : s.hang = none) :
    perform i s = { emitAll (traceOf s.par s.cfg i) (drawEntry s) with seq := .idle } := by
  rw [perform_completes i hh, entryMarks_of_drawing hi, finish_of_drawing hi]

/-- Two drawing requests with one trace are one operation, where every port completes. -/
theorem exec_drawing_congr {i j : Instr} (hi : i.isDrawing = true) (hj : j.isDrawing = true) {s : State}
    (hh : s.hang = none) (htr : traceOf s.par s.cfg i = traceOf s.par s.cfg j) : exec i s = exec j s := by
  rw [exec_of_drawing hi, exec_of_drawing hj, perform_of_drawing hi hh, perform_of_drawing hj hh, htr]

/-- A fresh machine takes a drawing request and performs its whole trace. -/
theorem exec_drawing_of_fresh {i : Instr} (hi : i.isDrawing = true) {s : State} (hs : s.Fresh) :
    exec i s = .next (emitAll (traceOf s.par s.cfg i) (drawEntry s)) := by
  have ⟨hidle, _, hh⟩ := hs
  have hseq : (emitAll (traceOf s.par s.cfg i) (drawEntry s)).seq = .idle := by simp [emitAll_fields, hidle]
  rw [exec_of_drawing hi, whenConstructed_of_fresh hs, perform_of_drawing hi hh, ← hseq]

/-- A no-op drawing request is the entry check alone (43_drawing.md R125, R128, R136). -/
theorem exec_drawing_nothing {i : Instr} (hi : i.isDrawing = true) {s : State} (hs : s.Fresh)
    (htr : traceOf s.par s.cfg i = []) : exec i s = .next { s with ubMarks := (drawEntry s).ubMarks } := by
  rw [exec_drawing_of_fresh hi hs, htr, ← drawEntry_eq]
  rfl

/-! A window and one data transaction: what every drawing request emits that emits anything. -/

theorem emitAll_window_data {s : State} {p : Params} (hp : s.par = p) (hh : s.hang = none)
    (x0 y0 x1 y1 : Word16) (bytes : List Byte) :
    emitAll (setWindowTrace p x0 y0 x1 y1 ++ txn p .high bytes) s =
      s.afterTxns .high (setWindowTrace p x0 y0 x1 y1 ++ txn p .high bytes) := by
  subst hp
  have hdata := emitAll_txn (s := s.afterTxns .low (setWindowTrace s.par x0 y0 x1 y1)) rfl hh .high bytes
  rw [emitAll_append, emitAll_setWindowTrace hh]
  exact hdata.trans (State.afterTxns_afterTxns ..)

/-- The entry check, then the window and the data transaction (43_drawing.md R126, R135). -/
theorem exec_drawing_window {i : Instr} (hi : i.isDrawing = true) {s : State} (hs : s.Fresh)
    {x0 y0 x1 y1 : Word16} {bytes : List Byte}
    (htr : traceOf s.par s.cfg i = setWindowTrace s.par x0 y0 x1 y1 ++ txn s.par .high bytes) :
    exec i s = .next { s.afterTxns .high (setWindowTrace s.par x0 y0 x1 y1 ++ txn s.par .high bytes) with
      ubMarks := (drawEntry s).ubMarks } := by
  have ⟨_, _, hh⟩ := hs
  rw [exec_drawing_of_fresh hi hs, htr, emitAll_window_data (by simp) (by simpa using hh), drawEntry_eq]
  rfl

/-- SET_WINDOW and one more item, as a listing (30_encoding.md R84). -/
theorem setWindowTrace_append_eq_listing (p : Params) (c : Cfg) (x0 y0 x1 y1 : Word16) (item : Listed) :
    setWindowTrace p x0 y0 x1 y1 ++ item.events p c = listing p c
      [.c p.cmds.caset, .d (encPair x0 x1), .c p.cmds.raset, .d (encPair y0 y1), .c p.cmds.ramwr, item] := by
  rw [setWindowTrace_eq_listing p c]
  simp [listing, encPair, enc16]

theorem transactions_window_data (p : Params) (x0 y0 x1 y1 : Word16) (bytes : List Byte) :
    transactions p (setWindowTrace p x0 y0 x1 y1 ++ txn p .high bytes) = 6 := by
  simp [setWindowTrace_eq_txns, transactions_txn]

theorem length_bytesSent_window_data (p : Params) (x0 y0 x1 y1 : Word16) (bytes : List Byte) :
    (bytesSent (setWindowTrace p x0 y0 x1 y1 ++ txn p .high bytes)).length = 11 + bytes.length := by
  have hbytes : bytesSent (setWindowTrace p x0 y0 x1 y1 ++ txn p .high bytes) =
      bytesSent (setWindowTrace p x0 y0 x1 y1) ++ bytes := by
    simp [setWindowTrace_eq_txns, bytesSent_txn]
  rw [hbytes, List.length_append, bytesSent_setWindowTrace]
  rfl

theorem length_window_data (p : Params) (x0 y0 x1 y1 : Word16) (bytes : List Byte) :
    (setWindowTrace p x0 y0 x1 y1 ++ txn p .high bytes).length = 29 + bytes.length := by
  rw [List.length_append, length_setWindowTrace, length_txn]
  omega

/-- The bytes of a transaction drive no line. -/
theorem LineState.foldl_after_tx (l : Line) (bytes : List Byte) (v : LineState) :
    (bytes.map Event.tx).foldl (fun v e => v.after l e) v = v := by
  induction bytes with
  | nil => rfl
  | cons b bytes ih => exact ih

/-- After a transaction mode-select is at its mode and chip-select is not active (10_state.md R43). -/
theorem lastLevel_append_txn (p : Params) (mode : Level) (bytes : List Byte) (es : List Event) (v : LineState) :
    lastLevel .dc (es ++ txn p mode bytes) v = .known mode ∧
      lastLevel .cs (es ++ txn p mode bytes) v = .known p.csActive.flip := by
  simp only [lastLevel, txn, List.foldl_append, List.foldl_cons, List.foldl_nil, LineState.foldl_after_tx]
  exact ⟨rfl, rfl⟩

/-! The traces of the three requests. -/

/-- The no-op cases and the clipped extents (43_drawing.md R126 to R128). -/
theorem clipRect_eq (x y w h : Word16) :
    clipRect x y w h =
      if 240 ≤ x.toNat ∨ 320 ≤ y.toNat ∨ w = 0 ∨ h = 0 then none
      else some ⟨x.toNat, y.toNat, min w.toNat (240 - x.toNat), min h.toNat (320 - y.toNat)⟩ := by
  have hw : w = 0 ↔ w.toNat = 0 := BitVec.toNat_inj.symm
  have hh : h = 0 ↔ h.toNat = 0 := BitVec.toNat_inj.symm
  simp only [hw, hh]
  unfold clipRect
  by_cases hon : onPanel x y = true
  · obtain ⟨hx, hy⟩ := onPanel_iff.1 hon
    rw [if_pos hon]
    simp only [clipExtent, panelWidth, panelHeight] at hx hy ⊢
    exact if_congr (by omega) rfl rfl
  · rw [if_neg hon, if_pos]
    simp only [onPanel_iff, panelWidth, panelHeight] at hon
    omega

theorem fillRectTrace_of_none {x y w h : Word16} (hq : clipRect x y w h = none) (p : Params) (color : Word16) :
    fillRectTrace p x y w h color = [] := by
  simp [fillRectTrace, hq]

theorem fillRectTrace_of_some {x y w h : Word16} {q : Clip} (hq : clipRect x y w h = some q) (p : Params)
    (color : Word16) :
    fillRectTrace p x y w h color =
      setWindowTrace p x y (BitVec.ofNat 16 (q.x + q.cw - 1)) (BitVec.ofNat 16 (q.y + q.ch - 1)) ++
        txn p .high (pixelBytes (hiByte color) (loByte color) (q.cw * q.ch)) := by
  simp [fillRectTrace, hq, pixelStreamTrace]

theorem drawPixelTrace_of_onPanel {x y : Word16} (h : onPanel x y = true) (p : Params) (color : Word16) :
    drawPixelTrace p x y color =
      setWindowTrace p x y x y ++ txn p .high [hiByte color, loByte color] :=
  if_pos h

/-- FILL_SCREEN's window and pixels (43_drawing.md R134). -/
theorem fillScreenTrace_eq (p : Params) (color : Word16) :
    fillScreenTrace p color =
      setWindowTrace p 0 0 239 319 ++ txn p .high (pixelBytes (hiByte color) (loByte color) 76800) := by
  have hclip : clipRect 0 0 240 320 = some ⟨0, 0, 240, 320⟩ := by decide
  rw [fillScreenTrace_eq_fillRectTrace, fillRectTrace_of_some hclip]
  rfl

/-- FILL_RECT emits nothing or begins with a full SET_WINDOW (43_drawing.md R139). -/
theorem fillRectTrace_begins (p : Params) (x y w h color : Word16) :
    fillRectTrace p x y w h color = [] ∨
      ∃ x0 y0 x1 y1, setWindowTrace p x0 y0 x1 y1 <+: fillRectTrace p x y w h color := by
  cases hq : clipRect x y w h with
  | none => exact .inl (fillRectTrace_of_none hq p color)
  | some q =>
    rw [fillRectTrace_of_some hq]
    exact .inr ⟨_, _, _, _, List.prefix_append ..⟩

theorem drawing_trace_begins {i : Instr} (hi : i.isDrawing = true) (p : Params) (c : Cfg) :
    traceOf p c i = [] ∨ ∃ x0 y0 x1 y1, setWindowTrace p x0 y0 x1 y1 <+: traceOf p c i := by
  cases i with
  | fillScreen color => exact fillRectTrace_begins p 0 0 240 320 color
  | fillRect x y w h color => exact fillRectTrace_begins p x y w h color
  | drawPixel x y color =>
    rw [traceOf, drawPixelTrace_eq_fillRectTrace]
    exact fillRectTrace_begins p x y 1 1 color
  | _ => cases hi

/-- The bytes of equal pixels, sent one after another (43_drawing.md R129). -/
theorem map_tx_pixelBytes (hi lo : Byte) (n : Nat) :
    (pixelBytes hi lo n).map Event.tx = (List.replicate n [Event.tx hi, Event.tx lo]).flatten := by
  induction n with
  | zero => rfl
  | succ n ih => simp [pixelBytes, List.replicate_succ, ih]

/-! Where pixel `n` of a window goes (43_drawing.md R131). -/

/-- How many columns a window has. -/
def windowWidth (x0 x1 : Word16) : Nat := x1.toNat - x0.toNat + 1

/-- How many cells a window has. -/
def windowCells (x0 y0 x1 y1 : Word16) : Nat := windowWidth x0 x1 * (y1.toNat - y0.toNat + 1)

/-- The column of pixel `n` in a window of columns `x0` to `x1`. -/
def windowCol (x0 x1 : Word16) (n : Nat) : Nat := x0.toNat + n % windowWidth x0 x1

/-- The row of pixel `n` in a window of columns `x0` to `x1` whose first row is `y0`. -/
def windowRow (x0 x1 y0 : Word16) (n : Nat) : Nat := y0.toNat + n / windowWidth x0 x1

theorem mod_windowWidth_lt (x0 x1 : Word16) (n : Nat) : n % windowWidth x0 x1 < windowWidth x0 x1 :=
  Nat.mod_lt n (Nat.succ_pos _)

/-- Past the last column the next pixel is at the start of the next row, else one column on
(44_controller.md R157). -/
theorem window_step {x0 x1 : Word16} (h : x0.toNat ≤ x1.toNat) (y0 : Word16) (n : Nat) :
    windowCol x0 x1 (n + 1) = (if x1.toNat < windowCol x0 x1 n + 1 then x0.toNat else windowCol x0 x1 n + 1) ∧
    windowRow x0 x1 y0 (n + 1) =
      if x1.toNat < windowCol x0 x1 n + 1 then windowRow x0 x1 y0 n + 1 else windowRow x0 x1 y0 n := by
  have hwidth : windowWidth x0 x1 = x1.toNat - x0.toNat + 1 := rfl
  have hmod := mod_windowWidth_lt x0 x1 n
  have hdiv := Nat.div_add_mod n (windowWidth x0 x1)
  have place {q r : Nat} (hn : r + windowWidth x0 x1 * q = n + 1) (hr : r < windowWidth x0 x1) :
      (n + 1) / windowWidth x0 x1 = q ∧ (n + 1) % windowWidth x0 x1 = r :=
    (Nat.div_mod_unique (by omega)).2 ⟨hn, hr⟩
  unfold windowCol windowRow
  split
  next hend =>
    obtain ⟨hq, hr⟩ := place (q := n / windowWidth x0 x1 + 1) (r := 0) (by rw [Nat.mul_succ]; omega) (by omega)
    rw [hq, hr]
    exact ⟨rfl, rfl⟩
  next hin =>
    obtain ⟨hq, hr⟩ := place (q := n / windowWidth x0 x1) (r := n % windowWidth x0 x1 + 1) (by omega) (by omega)
    rw [hq, hr]
    exact ⟨rfl, rfl⟩

/-- A pixel with a number below the window's size lies in the window. -/
theorem window_mem {x0 y0 x1 y1 : Word16} (h : WindowOk x0 y0 x1 y1) {n : Nat} (hn : n < windowCells x0 y0 x1 y1) :
    windowCol x0 x1 n ≤ x1.toNat ∧ windowRow x0 x1 y0 n ≤ y1.toNat := by
  obtain ⟨hx, -, hy, -⟩ := h
  have hwidth : windowWidth x0 x1 = x1.toNat - x0.toNat + 1 := rfl
  have hmod := mod_windowWidth_lt x0 x1 n
  have hdiv : n / windowWidth x0 x1 < y1.toNat - y0.toNat + 1 := Nat.div_lt_of_lt_mul hn
  unfold windowCol windowRow
  omega

/-- Two pixels of a window have two cells. -/
theorem window_inj {x0 x1 y0 : Word16} {m n : Nat} (hcol : windowCol x0 x1 m = windowCol x0 x1 n)
    (hrow : windowRow x0 x1 y0 m = windowRow x0 x1 y0 n) : m = n := by
  unfold windowCol at hcol
  unfold windowRow at hrow
  rw [← Nat.div_add_mod m (windowWidth x0 x1), Nat.add_left_cancel hcol, Nat.add_left_cancel hrow, Nat.div_add_mod]

/-- The frame memory with pixels written to a window's cells, the first of them as pixel `n`. -/
def Memory.storePixels (x0 x1 y0 : Word16) (n : Nat) (px : List Word16) (m : Memory) : Memory :=
  match px with
  | [] => m
  | v :: px => Memory.storePixels x0 x1 y0 (n + 1) px (m.fbWrite (windowCol x0 x1 n) (windowRow x0 x1 y0 n) v)

/-- Pixels stored leave every cell alone that is none of theirs. -/
theorem Memory.cell_storePixels_other {x0 y0 x1 y1 : Word16} (hw : WindowOk x0 y0 x1 y1) {px : List Word16}
    {n : Nat} (hn : n + px.length ≤ windowCells x0 y0 x1 y1) (m : Memory) {c r : Nat}
    (h : ∀ i, i < px.length → ¬(c = windowCol x0 x1 (n + i) ∧ r = windowRow x0 x1 y0 (n + i))) :
    (m.storePixels x0 x1 y0 n px).cell c r = m.cell c r := by
  induction px generalizing n m with
  | nil => rfl
  | cons v px ih =>
    rw [List.length_cons] at hn h
    have hcol : windowCol x0 x1 n < panelWidth := lt_of_le_of_lt (window_mem hw (by omega)).1 hw.2.1
    have hfirst : ¬(windowCol x0 x1 n = c ∧ windowRow x0 x1 y0 n = r) := fun he =>
      h 0 (by omega) ⟨he.1.symm, he.2.symm⟩
    rw [Memory.storePixels, ih (by omega), Memory.cell_fbWrite_other m v hcol hfirst]
    intro i hi
    rw [Nat.add_assoc, Nat.add_comm 1]
    exact h (i + 1) (by omega)

/-- Pixels stored are read back, each from its own cell. -/
theorem Memory.cell_storePixels {x0 y0 x1 y1 : Word16} (hw : WindowOk x0 y0 x1 y1) {px : List Word16}
    {n : Nat} (hn : n + px.length ≤ windowCells x0 y0 x1 y1) (m : Memory) {i : Nat}
    {v : Word16} (h : px[i]? = some v) :
    (m.storePixels x0 x1 y0 n px).cell (windowCol x0 x1 (n + i)) (windowRow x0 x1 y0 (n + i)) = .known v := by
  induction px generalizing n m i with
  | nil => simp at h
  | cons u px ih =>
    rw [List.length_cons] at hn
    rw [Memory.storePixels]
    cases i with
    | succ i =>
      have hnext : n + (i + 1) = n + 1 + i := by omega
      rw [hnext]
      exact ih (by omega) _ (by simpa using h)
    | zero =>
      obtain rfl : u = v := by simpa using h
      obtain ⟨hcol, hrow⟩ := window_mem hw (n := n) (by omega)
      rw [Memory.cell_storePixels_other hw (by omega)]
      · exact Memory.cell_fbWrite_same m (lt_of_le_of_lt hcol hw.2.1) (lt_of_le_of_lt hrow hw.2.2.2) u
      · rintro j - ⟨hc, hr⟩
        have := window_inj hc hr
        omega

/-! The controller receiving a window's pixels (44_controller.md R157). -/

/-- The controller takes data bytes as pixels of the window: RAMWR current, no byte pending and the pixel premises
met. -/
structure Ctl.Streams (p : Params) (x0 y0 x1 y1 : Word16) (o : Ctl) : Prop where
  listens : o.Listens p
  cmd : o.cmd = .cmd .ramwr
  half : o.half = .known none
  colmod : o.colmod = .known p.colmod16bpp
  madctl : o.madctl = .known p.madctlNormal
  sleep : o.sleep = .known .awake
  xs : o.xs = .known x0
  xe : o.xe = .known x1
  ys : o.ys = .known y0
  ye : o.ye = .known y1

/-- The controller with its cursor at pixel `n` of the window. -/
def Ctl.cursorAt (x0 x1 y0 : Word16) (n : Nat) (o : Ctl) : Ctl :=
  { o with cx := .known (windowCol x0 x1 n), cy := .known (windowRow x0 x1 y0 n) }

/-- A pixel of the window is written at the cursor, which goes to the next pixel (44_controller.md R157). -/
theorem Ctl.pixel_cursorAt {p : Params} {x0 y0 x1 y1 : Word16} (hw : WindowOk x0 y0 x1 y1) {o : Ctl}
    (h : o.Streams p x0 y0 x1 y1) {n : Nat} (hn : n < windowCells x0 y0 x1 y1) (v : Word16) :
    (o.cursorAt x0 x1 y0 n).pixel p v =
      ({ o with fb := o.fb.fbWrite (windowCol x0 x1 n) (windowRow x0 x1 y0 n) v } : Ctl).cursorAt x0 x1 y0 (n + 1) := by
  obtain ⟨hcol, hrow⟩ := window_mem hw hn
  obtain ⟨hcolNext, hrowNext⟩ := window_step hw.1 y0 n
  have hon : ¬(panelWidth ≤ windowCol x0 x1 n ∨ panelHeight ≤ windowRow x0 x1 y0 n) := by
    have ⟨_, hx, _, hy⟩ := hw
    omega
  simp only [Ctl.pixel, Ctl.cursorAt, h.colmod, h.madctl, h.sleep, h.xs, h.xe, h.ys, h.ye, and_self, ↓reduceIte,
    if_neg (not_lt.2 hrow), if_neg hon, hcolNext, hrowNext, ← h.half]
  split <;> rfl

/-- The two bytes of a pixel of the window: the high one kept, the low one completing it. -/
theorem Ctl.receiveAll_pixel {p : Params} {x0 y0 x1 y1 : Word16} (hw : WindowOk x0 y0 x1 y1) {o : Ctl}
    (h : o.Streams p x0 y0 x1 y1) {n : Nat} (hn : n < windowCells x0 y0 x1 y1) (v : Word16) :
    (o.cursorAt x0 x1 y0 n).receiveAll p (enc16 v) =
      ({ o with fb := o.fb.fbWrite (windowCol x0 x1 n) (windowRow x0 x1 y0 n) v } : Ctl).cursorAt x0 x1 y0 (n + 1) := by
  have hhigh : (o.cursorAt x0 x1 y0 n).event p (.tx (hiByte v)) =
      { o.cursorAt x0 x1 y0 n with half := .known (some (hiByte v)) } := by
    rw [Ctl.event_tx_of_listens (o := o.cursorAt x0 x1 y0 n) h.listens]
    simp [Ctl.cursorAt, Ctl.dataByte, h.cmd, Ctl.pixelByte, h.half]
  have hlow : ({ o.cursorAt x0 x1 y0 n with half := .known (some (hiByte v)) } : Ctl).event p (.tx (loByte v)) =
      (o.cursorAt x0 x1 y0 n).pixel p v := by
    rw [Ctl.event_tx_of_listens (o := { o.cursorAt x0 x1 y0 n with half := .known (some (hiByte v)) }) h.listens]
    simp [Ctl.cursorAt, Ctl.dataByte, h.cmd, Ctl.pixelByte, ← h.half]
  rw [enc16, Ctl.receiveAll_cons, hhigh, Ctl.receiveAll_cons, hlow, Ctl.receiveAll_nil, Ctl.pixel_cursorAt hw h hn]

/-- As many pixels as the window still has are all written, and the cursor goes past them. -/
theorem Ctl.receiveAll_pixels {p : Params} {x0 y0 x1 y1 : Word16} (hw : WindowOk x0 y0 x1 y1) {px : List Word16}
    {o : Ctl} (h : o.Streams p x0 y0 x1 y1) {n : Nat}
    (hn : n + px.length ≤ windowCells x0 y0 x1 y1) :
    (o.cursorAt x0 x1 y0 n).receiveAll p (px.flatMap enc16) =
      ({ o with fb := o.fb.storePixels x0 x1 y0 n px } : Ctl).cursorAt x0 x1 y0 (n + px.length) := by
  induction px generalizing o n with
  | nil => rfl
  | cons v px ih =>
    rw [List.length_cons] at hn ⊢
    have hrest := ih (n := n + 1)
      (o := { o with fb := o.fb.fbWrite (windowCol x0 x1 n) (windowRow x0 x1 y0 n) v }) { h with } (by omega)
    rw [List.flatMap_cons, Ctl.receiveAll_append, Ctl.receiveAll_pixel hw h (by omega), hrest, Memory.storePixels,
      Nat.add_assoc, Nat.add_comm 1]

/-- A controller initialized and at rest takes a command byte (44_controller.md R143, R162). -/
theorem Ctl.accepts_of_initialized {p : Params} {invert : Bool} {o : Ctl} (h : o.Initialized p invert)
    (hrest : o.AtRest) : o.Accepts := by
  obtain ⟨hbad, hdone, hrst, -⟩ := h
  obtain ⟨hquiet, -, hcomplete⟩ := hrest
  exact ⟨hbad, hdone, hrst, hquiet, hcomplete⟩

/-- One data transaction of as many pixels as the window still has: all of them written. -/
theorem Ctl.run_pixels_txn {p : Params} {x0 y0 x1 y1 : Word16} (hw : WindowOk x0 y0 x1 y1) {px : List Word16}
    {o : Ctl} (h : ({ o with cs := .known p.csActive, dc := .known .high } : Ctl).Streams p x0 y0 x1 y1) {n : Nat}
    (hn : n + px.length ≤ windowCells x0 y0 x1 y1) :
    (o.cursorAt x0 x1 y0 n).run p (txn p .high (px.flatMap enc16)) =
      ({ o with
        cs := .known p.csActive.flip, dc := .known .high
        fb := o.fb.storePixels x0 x1 y0 n px } : Ctl).cursorAt x0 x1 y0 (n + px.length) := by
  have hbad : o.bad = false := h.listens.1
  have hopen : ((o.cursorAt x0 x1 y0 n).event p (.set .dc .high)).event p (.set .cs p.csActive) =
      ({ o with cs := .known p.csActive, dc := .known .high } : Ctl).cursorAt x0 x1 y0 n := by
    simp [Ctl.event, Ctl.cursorAt, hbad]
  rw [Ctl.run_txn, hopen, Ctl.receiveAll_pixels hw h hn]
  exact Ctl.event_set_cs hbad

/-- RAMWR's command byte puts the cursor at the window's start (44_controller.md R156). -/
theorem Ctl.run_ramwr_command {p : Params} (hd : p.cmds.Distinct) {o : Ctl} (h : o.Accepts) {x0 y0 : Word16}
    (hxs : o.xs = .known x0) (hys : o.ys = .known y0) (x1 : Word16) :
    o.run p (txn p .low [p.cmds.ramwr]) =
      ({ o with
        cs := .known p.csActive.flip, dc := .known .low
        cmd := .cmd .ramwr, params := .known [], half := .known none } : Ctl).cursorAt x0 x1 y0 0 := by
  refine (Ctl.run_command_txn h (p.cmds.cmdOf_byteOf hd .ramwr)).trans ?_
  simp [Ctl.runCommand, Ctl.cursorAt, hxs, hys, Known.map, windowCol, windowRow]

/-- RAMWR with at most as many pixels as the window has cells does not break an initialized controller and stores
them from the window's start on (44_controller.md R156, R157). -/
theorem Ctl.run_ramwrTrace {p : Params} (hd : p.cmds.Distinct) {invert : Bool} {o : Ctl}
    (hinit : o.Initialized p invert) (hrest : o.AtRest) {x0 y0 x1 y1 : Word16} (hxs : o.xs = .known x0)
    (hxe : o.xe = .known x1) (hys : o.ys = .known y0) (hye : o.ye = .known y1) (hw : WindowOk x0 y0 x1 y1)
    {px : List Word16} (hlen : px.length ≤ windowCells x0 y0 x1 y1) :
    (o.run p (ramwrTrace p px)).bad = false ∧
      (o.run p (ramwrTrace p px)).fb = o.fb.storePixels x0 x1 y0 0 px := by
  have hcmd := Ctl.run_ramwr_command hd (Ctl.accepts_of_initialized hinit hrest) hxs hys x1
  obtain ⟨hbad, hdone, hrst, hsleep, -, hcolmod, hmadctl, -⟩ := hinit
  rw [ramwrTrace, writeCommandTrace, Ctl.run_append, hcmd]
  by_cases hpx : px = []
  · rw [if_pos hpx, hpx]
    exact ⟨hbad, rfl⟩
  · rw [if_neg hpx, writeDataBufTrace, Ctl.run_pixels_txn hw _ (by omega)]
    · exact ⟨hbad, rfl⟩
    · exact ⟨⟨hbad, rfl, rfl, hdone, hrst, hrest.1⟩, rfl, rfl, hcolmod, hmadctl, hsleep, hxs, hxe, hys, hye⟩

end Sys2Proof.Machine

open Sys2Proof Sys2Proof.Machine

/-- Settles O25: the trace is empty where clipping leaves nothing, else the clipped window and one stream. -/
theorem fillRectSendsTheClippedRectangle : Obligations.FillRectSendsTheClippedRectangle := by
  intro s x y w h color hs marks
  have hmarks : marks = (drawEntry s).ubMarks := (drawEntry_ubMarks s).symm
  have hclip := clipRect_eq x y w h
  rw [hmarks]
  split
  next hno =>
    rw [if_pos hno] at hclip
    exact exec_drawing_nothing (i := .fillRect x y w h color) rfl hs (fillRectTrace_of_none hclip s.par color)
  next hyes =>
    rw [if_neg hyes] at hclip
    dsimp only
    rw [← setWindowTrace_append_eq_listing]
    exact exec_drawing_window (i := .fillRect x y w h color) rfl hs (fillRectTrace_of_some hclip s.par color)

/-- Settles O26: its trace is FILL_RECT's of the panel, which is not clipped. -/
theorem fillScreenSendsTheWholePanel : Obligations.FillScreenSendsTheWholePanel := by
  intro s color hs
  have hpairs : encPair 0 239 = [0x00, 0x00, 0x00, 0xEF] ∧ encPair 0 319 = [0x00, 0x00, 0x01, 0x3F] := by decide
  refine ⟨exec_drawing_congr rfl rfl hs.2.2 (fillScreenTrace_eq_fillRectTrace s.par color), ?exec, ?bytes, ?length,
    ?transactions⟩
  case exec =>
    rw [← drawEntry_ubMarks, ← hpairs.1, ← hpairs.2, ← setWindowTrace_append_eq_listing]
    exact exec_drawing_window (i := .fillScreen color) rfl hs (fillScreenTrace_eq s.par color)
  all_goals rw [fillScreenTrace_eq]
  case bytes => rw [length_bytesSent_window_data, length_pixelBytes]
  case length => rw [length_window_data, length_pixelBytes]
  case transactions => exact transactions_window_data ..

/-- Settles O27: the trace is empty off the panel, else the window of one cell and one transaction of two bytes. -/
theorem drawPixelSendsOnePixel : Obligations.DrawPixelSendsOnePixel := by
  intro s x y color hs marks
  have hmarks : marks = (drawEntry s).ubMarks := (drawEntry_ubMarks s).symm
  have hon : onPanel x y = true ↔ ¬(240 ≤ x.toNat ∨ 320 ≤ y.toNat) := by
    rw [onPanel_iff, panelWidth, panelHeight]
    omega
  rw [hmarks]
  split
  next hno => exact exec_drawing_nothing (i := .drawPixel x y color) rfl hs (if_neg fun h => hon.1 h hno)
  next hyes =>
    rw [← setWindowTrace_append_eq_listing]
    exact exec_drawing_window (i := .drawPixel x y color) rfl hs
      (drawPixelTrace_of_onPanel (hon.2 hyes) s.par color)

/-- Settles O28: the two traces are equal, and both requests only mark and emit. -/
theorem drawPixelIsAOneByOneFill : Obligations.DrawPixelIsAOneByOneFill := fun p _ s x y color _ _ =>
  ⟨drawPixelTrace_eq_fillRectTrace p x y color, fun hh =>
    exec_drawing_congr rfl rfl hh (drawPixelTrace_eq_fillRectTrace s.par x y color)⟩

/-- Settles O29: each is SET_WINDOW and one data transaction, of two bytes a pixel. -/
theorem drawingCounts : Obligations.DrawingCounts := by
  intro p x y w h color hx hy hw hh
  have hclip := clipRect_eq x y w h
  rw [if_neg (by simp only [not_or]; exact ⟨by omega, by omega, hw, hh⟩)] at hclip
  have hon : onPanel x y = true := onPanel_iff.2 ⟨hx, hy⟩
  rw [fillRectTrace_of_some hclip, drawPixelTrace_of_onPanel hon]
  refine ⟨transactions_window_data .., ?_, ?_, transactions_window_data .., ?_, ?_, fun v =>
    lastLevel_append_txn ..⟩
  · rw [length_bytesSent_window_data, length_pixelBytes]
  · rw [length_window_data, length_pixelBytes]
  · exact length_bytesSent_window_data ..
  · exact length_window_data ..

/-- Settles O30: the trace reads the parameters and operands alone, and each machine appends it. -/
theorem drawingDependsOnItsOperandsAlone : Obligations.DrawingDependsOnItsOperandsAlone := by
  intro s s' i hi hs hs' hpar
  refine ⟨_, _, traceOf s.par s.cfg i, exec_drawing_of_fresh hi hs, exec_drawing_of_fresh hi hs', ?_, ?_,
    drawing_trace_begins hi s.par s.cfg⟩
  · simp
  · rw [emitAll_trace, drawEntry_trace, ← hpar, traceOf_of_drawing hi s.par s'.cfg s.cfg]

/-- Settles O34: a nonempty stream is one data transaction of the two bytes `n` times. -/
theorem pixelStreamIsOneTransaction : Obligations.PixelStreamIsOneTransaction := by
  intro s hi lo n hn hidle hh
  rw [← map_tx_pixelBytes]
  calc exec (.pixelStream hi lo n) s
      = if n = 0 then .refused .emptyBuffer else whenIdle s (perform (.pixelStream hi lo n) s) := rfl
    _ = whenIdle s (perform (.pixelStream hi lo n) s) := if_neg hn
    _ = .next (s.afterTxns .high (txn s.par .high (pixelBytes hi lo n))) := whenIdle_perform_txn rfl hidle hh rfl

/-- Settles O58: RAMWR stores its pixels from the window's start on, pixel `i` in the cell numbered `i` row by row. -/
theorem pixelsRunRowByRow : Obligations.PixelsRunRowByRow := by
  rintro s x0 y0 x1 y1 px ⟨⟨hidle, -, hh⟩, -, -, hpar, -⟩ hinit hrest hxs hxe hys hye hw
    (hlen : px.length ≤ windowCells x0 y0 x1 y1)
  obtain ⟨hgood, hfb⟩ := Ctl.run_ramwrTrace hpar.1 hinit hrest hxs hxe hys hye hw hlen
  have hx : exec (.ramwr px) s = .next (perform (.ramwr px) s) := whenIdle_of_idle hidle _
  refine ⟨_, hx, ?_⟩
  rw [exec_ctl hh hx, traceOf, hfb]
  refine ⟨hgood, fun i v hv => ?_, fun c r hout => ?_⟩
  · simpa [windowCol, windowRow, windowWidth] using Memory.cell_storePixels hw (n := 0) (by omega) s.ctl.fb hv
  · refine Memory.cell_storePixels_other hw (by omega) s.ctl.fb fun i hi => ?_
    rw [Nat.zero_add]
    exact hout i hi

end


section
/-! PROOF. The controller commands as instructions: the transactions each sends, and what a controller that accepts
a command byte makes of them. -/

namespace Sys2Proof.Machine

/-! A command row performed: its transactions as the spec's listing (30_encoding.md R75, R84). -/

theorem listing_command (p : Params) (c : Cfg) (b : Byte) : listing p c [.c b] = txn p .low [b] :=
  List.append_nil _

theorem listing_command_data (p : Params) (c : Cfg) (b : Byte) (bytes : List Byte) :
    listing p c [.c b, .d bytes] = txn p .low [b] ++ txn p .high bytes := by
  simp [listing, Listed.events]

/-- An idle machine performs a command row of one transaction as that transaction. -/
theorem exec_command_row {i : Instr} {s : State} {b : Byte} (hidle : s.seq = .idle) (hh : s.hang = none)
    (hx : exec i s = whenIdle s (perform i s)) (hi : i.isRequest = false)
    (htr : traceOf s.par s.cfg i = txn s.par .low [b]) :
    exec i s = .next (s.afterTxns .low (listing s.par s.cfg [.c b])) := by
  rw [hx, listing_command]
  exact whenIdle_perform_txn hi hidle hh htr

/-- An idle machine performs a command row with data as the command's transaction and the data's. -/
theorem exec_command_data_row {i : Instr} {s : State} {b : Byte} {bytes : List Byte} (hidle : s.seq = .idle)
    (hh : s.hang = none) (hx : exec i s = whenIdle s (perform i s)) (hi : i.isRequest = false)
    (htr : traceOf s.par s.cfg i = txn s.par .low [b] ++ txn s.par .high bytes) :
    exec i s = .next (s.afterTxns .high (listing s.par s.cfg [.c b, .d bytes])) := by
  have htxns := emitAll_txns (s := s) rfl hh [(.low, [b])] .high bytes
  rw [List.flatMap_singleton] at htxns
  rw [hx, whenIdle_of_idle hidle, perform_of_not_request hi hidle hh, htr, listing_command_data, htxns]

/-! What a controller that accepts a command byte makes of a command (44_controller.md R143). -/

/-- What a command byte leaves in a controller that takes it. -/
def Ctl.commandDone (p : Params) (c : Cmd) (o : Ctl) : Ctl :=
  { Ctl.runCommand p c { o with
      cs := .known p.csActive, dc := .known .low, cmd := .cmd c, params := .known [] } with
    cs := .known p.csActive.flip }

theorem Ctl.run_command {p : Params} (hd : p.cmds.Distinct) {o : Ctl} (h : o.Accepts) (c : Cmd) :
    o.run p (txn p .low [p.cmds.byteOf c]) = o.commandDone p c :=
  Ctl.run_command_txn h (p.cmds.cmdOf_byteOf hd c)

/-- What COLMOD leaves in a controller that takes its parameter (44_controller.md R149). -/
def Ctl.colmodSet (p : Params) (b : Byte) (o : Ctl) : Ctl :=
  { o with
    cs := .known p.csActive.flip, dc := .known .high, cmd := .cmd .colmod, params := .known [b]
    colmod := .known b }

/-- What MADCTL leaves in a controller that takes its parameter (44_controller.md R150). -/
def Ctl.madctlSet (p : Params) (b : Byte) (o : Ctl) : Ctl :=
  { o with
    cs := .known p.csActive.flip, dc := .known .high, cmd := .cmd .madctl, params := .known [b]
    madctl := .known b }

theorem Ctl.run_colmod {p : Params} (hd : p.cmds.Distinct) {o : Ctl} (h : o.Accepts) (b : Byte) :
    o.run p (oneParamTrace p p.cmds.colmod b) = o.colmodSet p b :=
  (Ctl.run_params_txns h (p.cmds.cmdOf_byteOf hd .colmod) rfl (List.cons_ne_nil b [])).trans
    (Ctl.event_set_cs h.1)

theorem Ctl.run_madctl {p : Params} (hd : p.cmds.Distinct) {o : Ctl} (h : o.Accepts) (b : Byte) :
    o.run p (oneParamTrace p p.cmds.madctl b) = o.madctlSet p b :=
  (Ctl.run_params_txns h (p.cmds.cmdOf_byteOf hd .madctl) rfl (List.cons_ne_nil b [])).trans
    (Ctl.event_set_cs h.1)

/-- The controller after a command row of one transaction that it accepts. -/
theorem afterTxns_command_ctl {s : State} (hp : s.Premises) (ha : s.ctl.Accepts) (c : Cmd) :
    (s.afterTxns .low (listing s.par s.cfg [.c (s.par.cmds.byteOf c)])).ctl = s.ctl.commandDone s.par c := by
  obtain ⟨-, -, -, hpar, -⟩ := hp
  rw [listing_command]
  exact Ctl.run_command hpar.1 ha c

/-! A command that the controller does not accept (44_controller.md R144). -/

theorem exec_of_command {t : CmdTable} {i : Instr} {code : Byte} {data : List Byte}
    (he : encode t i = .command code data) {s : State} (hidle : s.seq = .idle) :
    exec i s = .next (perform i s) := by
  cases i with
  | swreset | slpout | colmod | madctl | invoff | invon | dispon | caset | raset | ramwr =>
    exact whenIdle_of_idle hidle _
  | _ => cases he

/-- A command row sends its command byte first (30_encoding.md R73). -/
theorem traceOf_command {p : Params} {i : Instr} {code : Byte} {data : List Byte}
    (he : encode p.cmds i = .command code data) (c : Cfg) :
    ∃ es, traceOf p c i = txn p .low [code] ++ es := by
  cases i with
  | swreset | slpout | invoff | invon | dispon =>
    cases he
    exact ⟨[], (List.append_nil _).symm⟩
  | colmod | madctl | caset | raset | ramwr =>
    cases he
    exact ⟨_, rfl⟩
  | _ => cases he

/-- A trace whose first command byte the controller does not accept breaks it: `bad` is sticky. -/
theorem Ctl.run_command_first_bad {p : Params} {o : Ctl} (h : ¬o.Accepts) (b : Byte) (es : List Event) :
    (o.run p (txn p .low [b] ++ es)).bad = true := by
  have hbad := Ctl.run_command_txn_bad (p := p) h b
  rw [Ctl.run_append, Ctl.run_of_bad p es hbad, hbad]

end Sys2Proof.Machine

open Sys2Proof Sys2Proof.Machine

/-- Settles O37: one transaction, whose command byte is SWRESET's effect. -/
theorem swresetRestoresTheDefaults : Obligations.SwresetRestoresTheDefaults := fun _ hidle hh =>
  ⟨exec_command_row hidle hh rfl rfl rfl, fun hp ha => afterTxns_command_ctl hp ha .swreset⟩

/-- Settles O38: one transaction each, whose command byte is the command's effect. -/
theorem slpoutAndDisponTakeEffect : Obligations.SlpoutAndDisponTakeEffect := fun _ hidle hh =>
  ⟨exec_command_row hidle hh rfl rfl rfl, exec_command_row hidle hh rfl rfl rfl, fun hp ha =>
    ⟨afterTxns_command_ctl hp ha .slpout, afterTxns_command_ctl hp ha .dispon⟩⟩

/-- Settles O39: one transaction each, whose command byte is the command's effect. -/
theorem inversionCommandsTakeEffect : Obligations.InversionCommandsTakeEffect := fun _ hidle hh =>
  ⟨exec_command_row hidle hh rfl rfl rfl, exec_command_row hidle hh rfl rfl rfl, fun hp ha =>
    ⟨afterTxns_command_ctl hp ha .invoff, afterTxns_command_ctl hp ha .invon⟩⟩

/-- Settles O40: the command waits for its one parameter, which the data transaction brings. -/
theorem colmodAndMadctlTakeTheirParameter : Obligations.ColmodAndMadctlTakeTheirParameter := by
  intro s b hidle hh t u
  refine ⟨exec_command_data_row hidle hh rfl rfl rfl, exec_command_data_row hidle hh rfl rfl rfl, fun hp ha => ?_⟩
  obtain ⟨-, -, -, hpar, -⟩ := hp
  simp only [t, u, listing_command_data]
  exact ⟨Ctl.run_colmod hpar.1 ha b, Ctl.run_madctl hpar.1 ha b⟩

/-- Settles O41: the four parameter bytes are the two columns, checked when the last one has come. -/
theorem casetSetsTheColumnRange : Obligations.CasetSetsTheColumnRange := by
  intro s x0 x1 hidle hh t
  refine ⟨exec_command_data_row hidle hh rfl rfl rfl, fun hp ha => ?_⟩
  obtain ⟨-, -, -, hpar, -⟩ := hp
  simp only [t, listing_command_data]
  exact Ctl.run_casetTrace hpar.1 ha x0 x1

/-- Settles O42: the four parameter bytes are the two rows, checked when the last one has come. -/
theorem rasetSetsTheRowRange : Obligations.RasetSetsTheRowRange := by
  intro s y0 y1 hidle hh t
  refine ⟨exec_command_data_row hidle hh rfl rfl rfl, fun hp ha => ?_⟩
  obtain ⟨-, -, -, hpar, -⟩ := hp
  simp only [t, listing_command_data]
  exact Ctl.run_rasetTrace hpar.1 ha y0 y1

/-- Settles O43: with pixels a data transaction follows the command byte, without them none. -/
theorem ramwrArmsTheCursorAndSendsItsPixels : Obligations.RamwrArmsTheCursorAndSendsItsPixels := by
  intro s px hidle hh
  refine ⟨?_, fun ⟨_, _, _, hpar, _⟩ ha => Ctl.run_command hpar.1 ha .ramwr⟩
  by_cases hpx : px = []
  · have htr : traceOf s.par s.cfg (.ramwr px) = txn s.par .low [s.par.cmds.ramwr] := by
      simp [traceOf, ramwrTrace, writeCommandTrace, hpx]
    rw [if_pos hpx, if_pos hpx]
    exact exec_command_row hidle hh rfl rfl htr
  · have htr : traceOf s.par s.cfg (.ramwr px) =
        txn s.par .low [s.par.cmds.ramwr] ++ txn s.par .high (px.flatMap enc16) := by
      simp [traceOf, ramwrTrace, writeCommandTrace, writeDataBufTrace, hpx]
    rw [if_neg hpx, if_neg hpx]
    exact exec_command_data_row hidle hh rfl rfl htr

/-- Settles O45: a command row's first byte is its command byte, and the controller stays broken by it. -/
theorem commandsNotAcceptedBreak : Obligations.CommandsNotAcceptedBreak := by
  rintro s i hidle hh ⟨code, data, he⟩ ha
  obtain ⟨es, htr⟩ := traceOf_command he s.cfg
  refine ⟨_, exec_of_command he hidle, ?_⟩
  rw [exec_ctl hh (exec_of_command he hidle), htr]
  exact Ctl.run_command_first_bad ha code es

end


section
/-! PROOF. The observer's own rules: the bytes that break a controller, what a broken one keeps, the reset line and
time, and power-on. -/

namespace Sys2Proof.Machine

/-! One byte sent by itself. -/

theorem exec_writeCommand {s : State} (hidle : s.seq = .idle) (hh : s.hang = none) (b : Byte) :
    exec (.writeCommand b) s = .next (s.afterTxns .low (txn s.par .low [b])) :=
  whenIdle_perform_txn (i := .writeCommand b) rfl hidle hh rfl

theorem exec_writeData {s : State} (hidle : s.seq = .idle) (hh : s.hang = none) (b : Byte) :
    exec (.writeData b) s = .next (s.afterTxns .high (txn s.par .high [b])) :=
  whenIdle_perform_txn (i := .writeData b) rfl hidle hh rfl

/-- WRITE_COMMAND leaves the controller bad where its transaction does. -/
theorem writeCommand_breaks {s : State} (hidle : s.seq = .idle) (hh : s.hang = none) {b : Byte}
    (h : (s.ctl.run s.par (txn s.par .low [b])).bad = true) :
    ∃ t, exec (.writeCommand b) s = .next t ∧ t.ctl.bad = true :=
  ⟨_, exec_writeCommand hidle hh b, h⟩

/-- WRITE_DATA leaves the controller bad where its transaction does. -/
theorem writeData_breaks {s : State} (hidle : s.seq = .idle) (hh : s.hang = none) {b : Byte}
    (h : (s.ctl.run s.par (txn s.par .high [b])).bad = true) :
    ∃ t, exec (.writeData b) s = .next t ∧ t.ctl.bad = true :=
  ⟨_, exec_writeData hidle hh b, h⟩

/-- A transaction that does not break the controller found a reset done, the reset line high and no settling time
left (44_controller.md R144). -/
theorem Ctl.ready_of_txn_good {p : Params} {mode : Level} {b : Byte} {bytes : List Byte} {o : Ctl}
    (h : (o.run p (txn p mode (b :: bytes))).bad = false) :
    o.resetDone = .known true ∧ o.rst = .known .high ∧ o.quiet = .known 0 := by
  have hbad := Ctl.good_of_run_good h
  have hall := (Ctl.run_txn_good h).1
  rw [Ctl.receiveAll_cons] at hall
  have hbyte := Ctl.good_of_run_good hall
  by_contra hearly
  simp [Ctl.event, hbad, Ctl.receive, hearly] at hbyte

theorem Ctl.run_txn_early_bad {p : Params} {b : Byte} {bytes : List Byte} {o : Ctl}
    (h : o.resetDone = .known false ∨ o.rst ≠ .known .high ∨ ∃ ms, o.quiet = .known ms ∧ 0 < ms) (mode : Level) :
    (o.run p (txn p mode (b :: bytes))).bad = true := by
  by_contra hgood
  obtain ⟨hdone, hrst, hquiet⟩ := Ctl.ready_of_txn_good (Bool.not_eq_true _ ▸ hgood)
  rcases h with hnot | hnot | ⟨ms, hms, hpos⟩
  · simp [hdone] at hnot
  · exact hnot hrst
  · rw [hquiet, Known.known.injEq] at hms
    omega

/-- A data transaction of one byte that breaks the controller where it is received. -/
theorem Ctl.run_data_txn_bad {p : Params} {b : Byte} {o : Ctl}
    (h : Ctl.dataByte p b { o with cs := .known p.csActive, dc := .known .high } = Ctl.broken) :
    (o.run p (txn p .high [b])).bad = true := by
  by_contra hgood
  have hbyte := (Ctl.run_txn_good (Bool.not_eq_true _ ▸ hgood)).1
  rw [Ctl.receiveAll_cons, Ctl.receiveAll_nil] at hbyte
  rw [Ctl.event_tx_data rfl rfl hbyte, h, Ctl.broken_bad] at hbyte
  cases hbyte

/-- A data byte that follows no command breaks the controller (44_controller.md R141; Log 26). -/
theorem Ctl.dataByte_without_command {p : Params} {b : Byte} {o : Ctl} (h : o.cmd = .none ∨ o.cmd = .unknown) :
    o.dataByte p b = Ctl.broken := by
  rcases h with h | h <;> simp [Ctl.dataByte, h]

/-- A data byte beyond a command's parameters breaks the controller (44_controller.md R160). -/
theorem Ctl.dataByte_beyond_params {p : Params} {c : Cmd} {ps : List Byte} {o : Ctl} (hc : c ≠ .ramwr)
    (hcmd : o.cmd = .cmd c) (hps : o.params = .known ps) (h : nparams c ≤ ps.length) (b : Byte) :
    o.dataByte p b = Ctl.broken := by
  unfold Ctl.dataByte
  split
  next hramwr => exact absurd (hcmd.symm.trans hramwr) (by simpa using hc)
  next d _ hd =>
    obtain rfl : c = d := by simpa [hcmd] using hd
    simp [hps, Nat.not_lt.2 h]
  all_goals rfl

/-- A command whose parameters are not complete lets no command byte come (44_controller.md R143, R160). -/
theorem Ctl.not_complete_of_params {c : Cmd} {ps : List Byte} {o : Ctl} (hc : c ≠ .ramwr) (hcmd : o.cmd = .cmd c)
    (hps : o.params = .known ps) (h : ps.length < nparams c) : o.complete ≠ true := by
  unfold Ctl.complete
  split
  next => simp
  next hnone => simp [hcmd] at hnone
  next hramwr => exact absurd (hcmd.symm.trans hramwr) (by simpa using hc)
  next d _ hd =>
    obtain rfl : c = d := by simpa [hcmd] using hd
    simpa [hps] using h.ne

/-- A pixel's byte pending lets no command byte come (44_controller.md R159). -/
theorem Ctl.not_complete_of_half {o : Ctl} (hcmd : o.cmd = .cmd .ramwr) (h : o.half ≠ .known none) :
    o.complete ≠ true := by
  simpa [Ctl.complete, hcmd] using h

theorem Ctl.not_accepts_of_not_complete {o : Ctl} (h : o.complete ≠ true) : ¬o.Accepts :=
  fun ⟨_, _, _, _, hcomplete⟩ => h hcomplete

/-- CASET with a range out of order or off the panel breaks any controller (44_controller.md R154, R160). -/
theorem Ctl.run_casetTrace_bad {p : Params} (hd : p.cmds.Distinct) {x0 x1 : Word16}
    (h : x1.toNat < x0.toNat ∨ panelWidth ≤ x1.toNat) (o : Ctl) : (o.run p (casetTrace p x0 x1)).bad = true := by
  by_cases ha : o.Accepts
  · rw [Ctl.run_casetTrace hd ha, if_neg (by omega), Ctl.broken_bad]
  · exact Ctl.run_command_first_bad ha _ _

/-- RASET with a range out of order or off the panel breaks any controller (44_controller.md R155, R160). -/
theorem Ctl.run_rasetTrace_bad {p : Params} (hd : p.cmds.Distinct) {y0 y1 : Word16}
    (h : y1.toNat < y0.toNat ∨ panelHeight ≤ y1.toNat) (o : Ctl) : (o.run p (rasetTrace p y0 y1)).bad = true := by
  by_cases ha : o.Accepts
  · rw [Ctl.run_rasetTrace hd ha, if_neg (by omega), Ctl.broken_bad]
  · exact Ctl.run_command_first_bad ha _ _

/-- An advance shows the controller the events it performs, whether it finishes or stops at a later one. -/
theorem Advances.ctl {i : Instr} {u t : State} (h : Advances i u t) : ∃ es, t.ctl = u.ctl.run u.par es := by
  rcases h with rfl | ⟨es, n, -, -, rfl⟩
  · exact ⟨u.remaining, by simp⟩
  · exact ⟨es, by simp⟩

theorem Advances.bad_ctl {i : Instr} {u t : State} (h : Advances i u t) (hbad : u.ctl.bad = true) :
    t.ctl = u.ctl := by
  obtain ⟨es, hes⟩ := h.ctl
  rw [hes, Ctl.run_of_bad _ es hbad]

/-! The reset line and time (44_controller.md R145). -/

theorem Ctl.event_sleep {p : Params} {o : Ctl} (h : o.bad = false) (t : Nat) :
    o.event p (.sleep t) = o.sleepMs t := by
  simp [Ctl.event, h]

theorem Ctl.event_set_rst {p : Params} {o : Ctl} (h : o.bad = false) (v : Level) :
    o.event p (.set .rst v) = o.setRst p v := by
  simp [Ctl.event, h]

theorem Ctl.setRst_high_of_not_low (p : Params) {o : Ctl} (h : o.rst ≠ .known .low) :
    o.setRst p .high = { o with rst := .known .high } := by
  simp [Ctl.setRst, h]

/-- The reset line high again after a known low time: the reset-default state if it was long enough. -/
theorem Ctl.setRst_high_of_low (p : Params) {o : Ctl} (h : o.rst = .known .low) {ms : Nat}
    (hms : o.lowMs = .known ms) :
    o.setRst p .high =
      if p.obsRstLo ≤ ms then { o.resetDefaults p.obsRstRec with rst := .known .high } else Ctl.broken := by
  simp [Ctl.setRst, h, hms]

/-- The controller with the reset line low for `t` ms. -/
def Ctl.heldLow (t : Nat) (o : Ctl) : Ctl :=
  { o with rst := .known .low, resetDone := .known false, lowMs := .known t, quiet := o.quiet.map (· - t) }

theorem Ctl.run_reset_low {p : Params} {o : Ctl} (h : o.bad = false) (t : Nat) :
    o.run p [.set .rst .low, .sleep t] = o.heldLow t := by
  simp [Ctl.setRst, Ctl.event, h, Ctl.sleepMs, Known.map, Ctl.heldLow]

/-- A reset pulse of `t` ms (44_controller.md R145). -/
theorem Ctl.run_reset_pulse {p : Params} {o : Ctl} (h : o.bad = false) (t : Nat) :
    o.run p [.set .rst .low, .sleep t, .set .rst .high] =
      if p.obsRstLo ≤ t then { (o.heldLow t).resetDefaults p.obsRstRec with rst := .known .high }
      else Ctl.broken := by
  have hlow : (o.heldLow t).bad = false := h
  calc o.run p [.set .rst .low, .sleep t, .set .rst .high]
      = (o.run p [.set .rst .low, .sleep t]).event p (.set .rst .high) := rfl
    _ = (o.heldLow t).setRst p .high := by rw [Ctl.run_reset_low h, Ctl.event_set_rst hlow]
    _ = _ := Ctl.setRst_high_of_low p rfl rfl

theorem Ctl.sound_powerOn : Ctl.powerOn.Sound where
  resetDone := by simp [Ctl.powerOn]
  lowMs := by simp [Ctl.powerOn]
  quiet := by simp [Ctl.powerOn]
  params := by simp [Ctl.powerOn]
  half := by simp [Ctl.powerOn]
  window := ⟨trivial, trivial⟩
  cursor := Ctl.cursorKept_of_cmd_ne (by simp [Ctl.powerOn])

end Sys2Proof.Machine

open Sys2Proof Sys2Proof.Machine

/-- Settles O44: an unknown command byte breaks any controller, and a data byte finds no command to take it. -/
theorem bytesWithoutMeaningBreak : Obligations.BytesWithoutMeaningBreak := by
  intro s b hidle hh
  refine ⟨fun hb => ?_, fun hcmd => ?_⟩
  · exact writeCommand_breaks hidle hh (Ctl.run_unknown_command_txn_bad (CmdTable.cmdOf_eq_none hb))
  · refine writeData_breaks hidle hh (Ctl.run_data_txn_bad (Ctl.dataByte_without_command ?_))
    exact hcmd

/-- Settles O46: an incomplete command and a pending byte accept no command byte, a full parameter list takes no data
byte, and a wrong range breaks when its last byte has come, if not before. -/
theorem malformedParametersBreak : Obligations.MalformedParametersBreak := by
  intro s c b hidle hh
  refine ⟨fun ps hc hcmd hps hlen => ?incomplete, fun hcmd hhalf => ?pending, fun ps hc hcmd hps hlen => ?beyond,
    fun hd x0 x1 => ⟨fun hx => ?columns, fun hy => ?rows⟩⟩
  case incomplete =>
    have hnot := Ctl.not_accepts_of_not_complete (Ctl.not_complete_of_params hc hcmd hps hlen)
    exact writeCommand_breaks hidle hh (Ctl.run_command_txn_bad hnot b)
  case pending =>
    have hnot := Ctl.not_accepts_of_not_complete (Ctl.not_complete_of_half hcmd hhalf)
    exact writeCommand_breaks hidle hh (Ctl.run_command_txn_bad hnot b)
  case beyond =>
    refine writeData_breaks hidle hh (Ctl.run_data_txn_bad (Ctl.dataByte_beyond_params hc ?_ ?_ hlen b))
    · exact hcmd
    · exact hps
  case columns =>
    have hx' : exec (.caset x0 x1) s = .next _ := whenIdle_of_idle hidle _
    exact ⟨_, hx', exec_ctl hh hx' ▸ Ctl.run_casetTrace_bad hd hx s.ctl⟩
  case rows =>
    have hy' : exec (.raset x0 x1) s = .next _ := whenIdle_of_idle hidle _
    exact ⟨_, hy', exec_ctl hh hy' ▸ Ctl.run_rasetTrace_bad hd hy s.ctl⟩

/-- Settles O47: a byte of either mode that comes too early breaks the controller. -/
theorem byteTooEarlyBreaks : Obligations.ByteTooEarlyBreaks := fun _ _ hidle hh hearly =>
  ⟨writeCommand_breaks hidle hh (Ctl.run_txn_early_bad hearly .low),
    writeData_breaks hidle hh (Ctl.run_txn_early_bad hearly .high)⟩

/-- Settles O48: a step changes nothing or shows the controller events, and a bad one ignores them all. -/
theorem badControllerStaysBad : Obligations.BadControllerStaysBad := by
  intro s t hbad hstep
  rcases step_cases hstep with rfl | ⟨i, k, -, ha⟩ | ⟨w, rest, i, -, -, -, ha⟩
  · rfl
  · exact ha.bad_ctl hbad
  · simpa using ha.bad_ctl (by simpa using hbad)

/-- Settles O49: a byte is received with chip-select active alone. -/
theorem unselectedByteIsIgnored : Obligations.UnselectedByteIsIgnored := by
  intro p b o hcs
  unfold Ctl.event
  split
  · rfl
  · exact if_neg hcs

/-- Settles O50: each event is the rule's own, and the pulse is low, time and high. -/
theorem hardwareResetAndTime : Obligations.HardwareResetAndTime := by
  intro p o t hbad
  refine ⟨Ctl.event_set_rst hbad .low, fun q hq => ?_, Ctl.event_sleep hbad t, fun hrst => ?_, ?_⟩
  · rw [Ctl.event_sleep hbad, Ctl.sleepMs, hq, Known.map]
  · rw [Ctl.event_set_rst hbad, Ctl.setRst_high_of_not_low p hrst]
  · exact Ctl.run_reset_pulse hbad t

/-- Settles O14: the machine is idle, its frame memory empty, no line driven, and the observer at power-on sound. -/
theorem invariantAtPowerOn : Obligations.InvariantAtPowerOn :=
  (State.inv_iff State.reset).2
    ⟨⟨List.Pairwise.nil, by simp [State.reset, Ctl.powerOn]⟩, .inr ⟨rfl, Ctl.sound_powerOn⟩, trivial,
      by decide, by decide⟩

end


section
/-! PROOF. Pixel bytes at the cursor, and the controller that INIT leaves. -/

namespace Sys2Proof.Machine

theorem listing_data (p : Params) (c : Cfg) (bytes : List Byte) : listing p c [.d bytes] = txn p .high bytes :=
  List.append_nil _

/-! Data bytes sent to a controller (44_controller.md R143, R157). -/

/-- The controller inside a data transaction, no byte received yet. -/
def Ctl.inData (p : Params) (o : Ctl) : Ctl := { o with cs := .known p.csActive, dc := .known .high }

theorem Ctl.run_data_txn {p : Params} {o : Ctl} (h : o.bad = false) (bytes : List Byte) :
    o.run p (txn p .high bytes) = ((o.inData p).receiveAll p bytes).event p (.set .cs p.csActive.flip) := by
  have hopen : (o.event p (.set .dc .high)).event p (.set .cs p.csActive) = o.inData p := by
    simp [Ctl.event, h, Ctl.inData]
  rw [Ctl.run_txn, hopen]

theorem Ctl.run_data_byte {p : Params} {o : Ctl} (h : (o.inData p).Listens p) (b : Byte) :
    o.run p (txn p .high [b]) = (Ctl.dataByte p b (o.inData p)).event p (.set .cs p.csActive.flip) := by
  rw [Ctl.run_data_txn (o := o) h.1, Ctl.receiveAll_cons, Ctl.receiveAll_nil, Ctl.event_tx_of_listens h]

/-- The first byte of a pair is held. -/
theorem Ctl.dataByte_first {p : Params} {o : Ctl} (hcmd : o.cmd = .cmd .ramwr) (hhalf : o.half = .known none)
    (b : Byte) : o.dataByte p b = { o with half := .known (some b) } := by
  simp [Ctl.dataByte, Ctl.pixelByte, hcmd, hhalf]

/-- The second byte of a pair completes the pixel. -/
theorem Ctl.dataByte_second {p : Params} {h : Byte} {o : Ctl} (hcmd : o.cmd = .cmd .ramwr)
    (hhalf : o.half = .known (some h)) (b : Byte) :
    o.dataByte p b = Ctl.pixel p (join16 h b) { o with half := .known none } := by
  simp [Ctl.dataByte, Ctl.pixelByte, hcmd, hhalf]

/-- A pixel with a premise failed breaks the controller (44_controller.md R157). -/
theorem Ctl.pixel_without_premise {p : Params} {o : Ctl}
    (h : o.colmod ≠ .known p.colmod16bpp ∨ o.madctl ≠ .known p.madctlNormal ∨ o.sleep ≠ .known .awake ∨
      o.xs = .unknown ∨ o.xe = .unknown ∨ o.ys = .unknown ∨ o.ye = .unknown ∨ o.cx = .unknown ∨ o.cy = .unknown)
    (v : Word16) : o.pixel p v = Ctl.broken := by
  unfold Ctl.pixel
  split
  · split
    · simp_all
    · rfl
  · rfl

/-- A pixel past the window's end breaks the controller (44_controller.md R158). -/
theorem Ctl.pixel_past_end {p : Params} {o : Ctl} {ye : Word16} {cy : Nat} (hye : o.ye = .known ye)
    (hcy : o.cy = .known cy) (h : ye.toNat < cy) (v : Word16) : o.pixel p v = Ctl.broken := by
  unfold Ctl.pixel
  split
  · split
    next hye' _ hcy' =>
      rw [hye, Known.known.injEq] at hye'
      rw [hcy, Known.known.injEq] at hcy'
      rw [if_pos (by rwa [← hye', ← hcy'])]
    · rfl
  · rfl

/-- A pixel at a cursor by the window is written there, and the cursor steps along the window
(44_controller.md R157). -/
theorem Ctl.pixel_written {p : Params} {o : Ctl} (hcolmod : o.colmod = .known p.colmod16bpp)
    (hmadctl : o.madctl = .known p.madctlNormal) (hsleep : o.sleep = .known .awake) {xs xe ys ye : Word16}
    {cx cy : Nat} (hxs : o.xs = .known xs) (hxe : o.xe = .known xe) (hys : o.ys = .known ys)
    (hye : o.ye = .known ye) (hcx : o.cx = .known cx) (hcy : o.cy = .known cy) (hrow : cy ≤ ye.toNat)
    (hcol : cx < panelWidth) (hpanel : cy < panelHeight) (v : Word16) :
    o.pixel p v = { o with
      half := .known none, fb := o.fb.fbWrite cx cy v
      cx := .known (if xe.toNat < cx + 1 then xs.toNat else cx + 1)
      cy := .known (if xe.toNat < cx + 1 then cy + 1 else cy) } := by
  have hoff : ¬(panelWidth ≤ cx ∨ panelHeight ≤ cy) := by omega
  simp only [Ctl.pixel, hcolmod, hmadctl, hsleep, hxs, hxe, hys, hye, hcx, hcy, and_self, ↓reduceIte,
    if_neg (Nat.not_lt.2 hrow), if_neg hoff]
  split <;> rfl

/-! The pieces of INIT (40_init.md R92 to R99), seen by the controller. -/

/-- The controller with no settling time left. -/
def Ctl.settled (o : Ctl) : Ctl := { o with quiet := .known 0 }

/-- A delay no shorter than the settling time ends it (44_controller.md R145). -/
theorem Ctl.run_sleep_settles {p : Params} {o : Ctl} (hbad : o.bad = false) (hrst : o.rst = .known .high) {q t : Nat}
    (hquiet : o.quiet = .known q) (hle : q ≤ t) : o.run p [.sleep t] = o.settled := by
  simp [Ctl.event_sleep hbad, Ctl.sleepMs, hrst, hquiet, Known.map, Nat.sub_eq_zero_of_le hle, Ctl.settled]

/-- What INIT's reset pulse leaves: the reset-default state, settled. -/
def Ctl.pulsed (p : Params) (o : Ctl) : Ctl :=
  { o.resetDefaults 0 with rst := .known .high, lowMs := .known p.tRstLo }

/-- INIT's reset pulse, the reset line not low before (40_init.md R92; 44_controller.md R145). -/
theorem Ctl.run_resetPulseTrace {p : Params} (hlo : p.obsRstLo ≤ p.tRstLo) (hrec : p.obsRstRec ≤ p.tRstRec) {o : Ctl}
    (hbad : o.bad = false) (hrst : o.rst ≠ .known .low) : o.run p (resetPulseTrace p) = o.pulsed p := by
  have hpower : o.run p [.set .rst .high, .sleep p.tPwr] =
      Ctl.sleepMs p.tPwr { o with rst := .known .high } := by
    simp [Ctl.setRst_high_of_not_low p hrst, Ctl.event, hbad]
  have hsplit : resetPulseTrace p = [Event.set .rst .high, Event.sleep p.tPwr] ++
      ([Event.set .rst .low, Event.sleep p.tRstLo, Event.set .rst .high] ++ [Event.sleep p.tRstRec]) := rfl
  have hpowered : (Ctl.sleepMs p.tPwr { o with rst := .known .high }).bad = false := hbad
  rw [hsplit, Ctl.run_append, Ctl.run_append, hpower, Ctl.run_reset_pulse hpowered, if_pos hlo]
  refine Ctl.run_sleep_settles (q := p.obsRstRec) ?_ ?_ ?_ hrec
  · exact hbad
  · rfl
  · rfl

theorem Ctl.accepts_pulsed (p : Params) {o : Ctl} (h : o.bad = false) : (o.pulsed p).Accepts :=
  ⟨h, rfl, rfl, rfl, rfl⟩

/-- A command without parameters that takes effect lets a command byte come when it has settled. -/
theorem Ctl.commandDone_fields {p : Params} {c : Cmd} (hc : nparams c = 0) {o : Ctl} (h : o.Accepts) :
    (o.commandDone p c).bad = false ∧ (o.commandDone p c).resetDone = .known true ∧
      (o.commandDone p c).rst = .known .high ∧ (o.commandDone p c).complete = true := by
  obtain ⟨hbad, hdone, hrst, -, -⟩ := h
  cases c with
  | swreset => exact ⟨hbad, rfl, hrst, rfl⟩
  | slpout | invoff | invon | dispon | ramwr => exact ⟨hbad, hdone, hrst, rfl⟩
  | colmod | madctl | caset | raset => cases hc

theorem Ctl.accepts_commandDone {p : Params} {c : Cmd} (hc : nparams c = 0) {o : Ctl} (h : o.Accepts)
    (hquiet : (o.commandDone p c).quiet = .known 0) : (o.commandDone p c).Accepts := by
  obtain ⟨hbad, hdone, hrst, hcomplete⟩ := Ctl.commandDone_fields (p := p) hc h
  exact ⟨hbad, hdone, hrst, hquiet, hcomplete⟩

theorem Ctl.accepts_settled {p : Params} {c : Cmd} (hc : nparams c = 0) {o : Ctl} (h : o.Accepts) :
    (o.commandDone p c).settled.Accepts := by
  obtain ⟨hbad, hdone, hrst, hcomplete⟩ := Ctl.commandDone_fields (p := p) hc h
  exact ⟨hbad, hdone, hrst, rfl, hcomplete⟩

/-- A command without parameters and the delay after it. -/
theorem Ctl.run_command_sleep {p : Params} (hd : p.cmds.Distinct) {c : Cmd} (hc : nparams c = 0) {o : Ctl}
    (h : o.Accepts) {q t : Nat} (hquiet : (o.commandDone p c).quiet = .known q) (hle : q ≤ t) :
    o.run p (txn p .low [p.cmds.byteOf c] ++ [Event.sleep t]) = (o.commandDone p c).settled := by
  obtain ⟨hbad, -, hrst, -⟩ := Ctl.commandDone_fields (p := p) hc h
  rw [Ctl.run_append, Ctl.run_command hd h, Ctl.run_sleep_settles hbad hrst hquiet hle]

theorem Ctl.accepts_colmodSet (p : Params) (b : Byte) {o : Ctl} (h : o.Accepts) : (o.colmodSet p b).Accepts := by
  obtain ⟨hbad, hdone, hrst, hquiet, -⟩ := h
  exact ⟨hbad, hdone, hrst, hquiet, rfl⟩

theorem Ctl.accepts_madctlSet (p : Params) (b : Byte) {o : Ctl} (h : o.Accepts) : (o.madctlSet p b).Accepts := by
  obtain ⟨hbad, hdone, hrst, hquiet, -⟩ := h
  exact ⟨hbad, hdone, hrst, hquiet, rfl⟩

/-- The inversion command of a configuration (40_init.md R97). -/
def inversionCmd (invert : Bool) : Cmd := if invert then .invon else .invoff

theorem Ctl.accepts_inversion (p : Params) (invert : Bool) {o : Ctl} (h : o.Accepts) :
    (o.commandDone p (inversionCmd invert)).Accepts := by
  have ⟨_, _, _, hquiet, _⟩ := h
  cases invert <;> exact Ctl.accepts_commandDone rfl h hquiet

/-- INIT's trace in the steps the controller sees. -/
theorem initTrace_eq_steps (p : Params) (c : Cfg) (r : BitRate) :
    initTrace p c r =
      [Event.busCfg r c.sckId c.mosiId, Event.outCfg .cs, Event.outCfg .dc, Event.outCfg .rst] ++ (resetPulseTrace p ++
      ((txn p .low [p.cmds.byteOf .swreset] ++ [Event.sleep p.tSwReset]) ++
      ((txn p .low [p.cmds.byteOf .slpout] ++ [Event.sleep p.tSlpOut]) ++
      (oneParamTrace p p.cmds.colmod p.colmod16bpp ++ (oneParamTrace p p.cmds.madctl p.madctlNormal ++
      (txn p .low [p.cmds.byteOf (inversionCmd c.invert)] ++
      (txn p .low [p.cmds.byteOf .dispon] ++ [Event.sleep p.tDispOn]))))))) := by
  have hinv : (if c.invert then p.cmds.invon else p.cmds.invoff) = p.cmds.byteOf (inversionCmd c.invert) := by
    cases c.invert <;> rfl
  simp [initTrace, writeCommandTrace, hinv, CmdTable.byteOf]

/-- What INIT leaves in a controller that is not bad: of its fields the frame memory alone is as it was. -/
def Ctl.inited (p : Params) (invert : Bool) (o : Ctl) : Ctl :=
  { o.resetDefaults 0 with
    cs := .known p.csActive.flip, dc := .known .low, rst := .known .high, lowMs := .known p.tRstLo
    cmd := .cmd .dispon, sleep := .known .awake, disp := .known .on, inv := .known (if invert then .on else .off)
    colmod := .known p.colmod16bpp, madctl := .known p.madctlNormal }

/-- The effects of INIT's steps, one after another. -/
theorem Ctl.inited_eq_steps (p : Params) (invert : Bool) (o : Ctl) :
    (((((((((o.pulsed p).commandDone p .swreset).settled).commandDone p .slpout).settled.colmodSet p
      p.colmod16bpp).madctlSet p p.madctlNormal).commandDone p (inversionCmd invert)).commandDone p .dispon).settled) =
      o.inited p invert := by
  cases invert <;>
    simp [Ctl.inited, Ctl.pulsed, Ctl.commandDone, Ctl.settled, Ctl.colmodSet, Ctl.madctlSet, Ctl.runCommand,
      Ctl.resetDefaults, inversionCmd]

/-- INIT sent to any controller that is not bad and whose reset line is not low (44_controller.md R162). -/
theorem Ctl.run_initTrace {p : Params} (hd : p.cmds.Distinct) (ht : p.Timely) {o : Ctl} (hbad : o.bad = false)
    (hrst : o.rst ≠ .known .low) (c : Cfg) (r : BitRate) : o.run p (initTrace p c r) = o.inited p c.invert := by
  obtain ⟨hlo, hrec, hsw, hslp, hdisp⟩ := ht
  have hcfg : o.run p [.busCfg r c.sckId c.mosiId, .outCfg .cs, .outCfg .dc, .outCfg .rst] = o := by
    simp [Ctl.event]
  have hreset := Ctl.accepts_pulsed p hbad
  have hswreset := Ctl.accepts_settled (p := p) (c := .swreset) rfl hreset
  have hslpout := Ctl.accepts_settled (p := p) (c := .slpout) rfl hswreset
  have hcolmod := Ctl.accepts_colmodSet p p.colmod16bpp hslpout
  have hmadctl := Ctl.accepts_madctlSet p p.madctlNormal hcolmod
  have hinversion := Ctl.accepts_inversion p c.invert hmadctl
  rw [initTrace_eq_steps, Ctl.run_append, hcfg, Ctl.run_append, Ctl.run_resetPulseTrace hlo hrec hbad hrst,
    Ctl.run_append, Ctl.run_command_sleep hd rfl hreset rfl hsw,
    Ctl.run_append, Ctl.run_command_sleep hd rfl hswreset rfl hslp,
    Ctl.run_append, Ctl.run_colmod hd hslpout, Ctl.run_append, Ctl.run_madctl hd hcolmod,
    Ctl.run_append, Ctl.run_command hd hmadctl, Ctl.run_command_sleep hd rfl hinversion rfl hdisp, Ctl.inited_eq_steps]

/-- The controller INIT leaves is initialized and at rest, its frame memory as it was. -/
theorem Ctl.inited_spec (p : Params) (invert : Bool) {o : Ctl} (h : o.bad = false) :
    (o.inited p invert).Initialized p invert ∧ (o.inited p invert).AtRest ∧ (o.inited p invert).fb = o.fb :=
  ⟨⟨h, rfl, rfl, rfl, rfl, rfl, rfl, rfl⟩, ⟨rfl, rfl, rfl⟩, rfl⟩

/-- INIT on a fresh UNCONFIGURED block marks nothing and shows the controller its trace. -/
theorem exec_init_unconfigured {s : State} (hs : s.Fresh) (hdrv : s.drv = .unconfigured) {r : BitRate} (hr : r ≠ 0) :
    ∃ t, exec (.init r) s = .next t ∧ t.par = s.par ∧ t.cfg = s.cfg ∧ t.ub = s.ub ∧
      t.ctl = s.ctl.run s.par (initTrace s.par s.cfg r) := by
  refine ⟨_, exec_init_of_fresh hs hr, ?_⟩
  simp [finish, initEntry, hdrv, State.ub]

end Sys2Proof.Machine

open Sys2Proof Sys2Proof.Machine

/-- Settles O51: the byte is held, or completes a pixel whose premises, window and cursor decide. -/
theorem pixelBytesPairAndWalkTheWindow : Obligations.PixelBytesPairAndWalkTheWindow := by
  intro s b hp hwindow hcursor hdone hrst hquiet hcmd t
  obtain ⟨⟨hidle, -, hh⟩, -, -, -, -, hbad⟩ := hp
  have hrun := Ctl.run_data_byte (p := s.par) (o := s.ctl) ⟨hbad, rfl, rfl, hdone, hrst, hquiet⟩ b
  simp only [t, listing_data]
  refine ⟨exec_writeData hidle hh b, fun hhalf => ?held, fun h hhalf => ?completed⟩
  case held =>
    rw [Ctl.dataByte_first (o := s.ctl.inData s.par) hcmd hhalf] at hrun
    exact hrun.trans (Ctl.event_set_cs hbad)
  case completed =>
    rw [Ctl.dataByte_second (o := s.ctl.inData s.par) hcmd hhalf] at hrun
    have hbroken (hpixel : Ctl.pixel s.par (join16 h b) { s.ctl.inData s.par with half := .known none } = Ctl.broken) :
        (s.ctl.run s.par (txn s.par .high [b])).bad = true := by
      rw [hrun, hpixel]
      rfl
    refine ⟨fun hfail => hbroken (Ctl.pixel_without_premise ?_ _), fun xs xe ys ye cx cy hxs hxe hys hye hcx hcy =>
      ⟨fun hpast => hbroken (Ctl.pixel_past_end (ye := ye) ?_ ?_ hpast _),
        fun hcolmod hmadctl hsleep hrow => hrun.trans ?_⟩⟩
    · exact hfail
    · exact hye
    · exact hcy
    · have hcur := hcursor hcmd
      simp only [Ctl.WindowKept, hxs, hxe, hys, hye, hcx, hcy] at hwindow hcur
      rw [Ctl.pixel_written (o := { s.ctl.inData s.par with half := .known none }) hcolmod hmadctl hsleep hxs hxe
        hys hye hcx hcy hrow (by omega) (by omega)]
      exact Ctl.event_set_cs hbad

/-- Settles O52: an UNCONFIGURED block marks nothing, and the nine steps bring any controller to one state. -/
theorem initInitializesTheController : Obligations.InitInitializesTheController := by
  intro s r hp hdrv hrst hr
  obtain ⟨hfresh, hub, -, hpar, htimely, hbad⟩ := hp
  obtain ⟨t, hx, htpar, htcfg, htub, htctl⟩ := exec_init_unconfigured hfresh hdrv hr
  rw [Ctl.run_initTrace hpar.1 htimely hbad hrst] at htctl
  obtain ⟨hinit, hrest, hfb⟩ := Ctl.inited_spec s.par s.cfg.invert hbad
  refine ⟨t, hx, htub.trans hub, ?_⟩
  rw [htpar, htcfg, htctl]
  exact ⟨hinit, hrest, hfb⟩

end


section
/-! PROOF. A window's whole stream: every cell of the window written, the cursor below it; the drawing requests, and
what the panel shows. -/

namespace Sys2Proof.Machine

/-! The pixels of a window (43_drawing.md R131). -/

/-- Every cell of a window is some pixel's. -/
theorem exists_window_number {x0 y0 x1 y1 : Word16} {c r : Nat} (hc0 : x0.toNat ≤ c) (hc1 : c ≤ x1.toNat)
    (hr0 : y0.toNat ≤ r) (hr1 : r ≤ y1.toNat) :
    ∃ i, i < windowCells x0 y0 x1 y1 ∧ windowCol x0 x1 i = c ∧ windowRow x0 x1 y0 i = r := by
  have hwidth : windowWidth x0 x1 = x1.toNat - x0.toNat + 1 := rfl
  have hcol : c - x0.toNat < windowWidth x0 x1 := by omega
  obtain ⟨hdiv, hmod⟩ := (Nat.div_mod_unique (c := c - x0.toNat) (d := r - y0.toNat) (Nat.zero_lt_of_lt hcol)).2
    ⟨rfl, hcol⟩
  refine ⟨c - x0.toNat + windowWidth x0 x1 * (r - y0.toNat), ?_, ?_, ?_⟩
  · have hrows : windowWidth x0 x1 * (r - y0.toNat + 1) ≤ windowCells x0 y0 x1 y1 :=
      Nat.mul_le_mul_left _ (by omega)
    rw [Nat.mul_succ] at hrows
    omega
  · rw [windowCol, hmod]
    omega
  · rw [windowRow, hdiv]
    omega

/-- The pixel after a window's last one is below it. -/
theorem windowRow_windowCells (x0 x1 : Word16) {y0 y1 : Word16} (h : y0.toNat ≤ y1.toNat) :
    windowRow x0 x1 y0 (windowCells x0 y0 x1 y1) = y1.toNat + 1 := by
  have hwidth : 0 < windowWidth x0 x1 := Nat.succ_pos _
  rw [windowRow, windowCells, Nat.mul_div_cancel_left _ hwidth]
  omega

/-- Pixels of a window leave every cell outside it alone. -/
theorem Memory.cell_storePixels_outside {x0 y0 x1 y1 : Word16} (hw : WindowOk x0 y0 x1 y1) {px : List Word16}
    (hlen : px.length ≤ windowCells x0 y0 x1 y1) (m : Memory) {c r : Nat}
    (h : ¬(x0.toNat ≤ c ∧ c ≤ x1.toNat ∧ y0.toNat ≤ r ∧ r ≤ y1.toNat)) :
    (m.storePixels x0 x1 y0 0 px).cell c r = m.cell c r := by
  refine Memory.cell_storePixels_other hw (by omega) m fun i hi ⟨hc, hr⟩ => h ?_
  obtain ⟨hcol, hrow⟩ := window_mem hw (n := 0 + i) (by omega)
  rw [hc, hr]
  exact ⟨Nat.le_add_right _ _, hcol, Nat.le_add_right _ _, hrow⟩

/-- A window's whole stream of equal pixels leaves their value in every cell of it. -/
theorem Memory.cell_storePixels_replicate {x0 y0 x1 y1 : Word16} (hw : WindowOk x0 y0 x1 y1) (m : Memory)
    (color : Word16) {c r : Nat} (hc0 : x0.toNat ≤ c) (hc1 : c ≤ x1.toNat) (hr0 : y0.toNat ≤ r)
    (hr1 : r ≤ y1.toNat) :
    (m.storePixels x0 x1 y0 0 (List.replicate (windowCells x0 y0 x1 y1) color)).cell c r = .known color := by
  obtain ⟨i, hi, rfl, rfl⟩ := exists_window_number hc0 hc1 hr0 hr1
  have hcell := Memory.cell_storePixels hw (n := 0) (px := List.replicate (windowCells x0 y0 x1 y1) color)
    (by simp) m (i := i) (v := color) (by simp [hi])
  rwa [Nat.zero_add] at hcell

theorem pixelBytes_eq_flatMap (color : Word16) (n : Nat) :
    pixelBytes (hiByte color) (loByte color) n = (List.replicate n color).flatMap enc16 := by
  induction n with
  | zero => rfl
  | succ n ih => simp [pixelBytes, List.replicate_succ, enc16, ih]

/-! The controller receiving a window and its whole stream (44_controller.md R164, R165). -/

/-- The window set, and its pixels from its start on received in one data transaction. -/
def Ctl.windowFilled (p : Params) (x0 y0 x1 y1 : Word16) (px : List Word16) (o : Ctl) : Ctl :=
  Ctl.cursorAt x0 x1 y0 px.length
    { o.windowSet p x0 y0 x1 y1 with dc := .known .high, fb := o.fb.storePixels x0 x1 y0 0 px }

theorem Ctl.initialized_windowFilled {p : Params} {invert : Bool} {o : Ctl} (h : o.Initialized p invert)
    (x0 y0 x1 y1 : Word16) (px : List Word16) : (o.windowFilled p x0 y0 x1 y1 px).Initialized p invert :=
  h

theorem Ctl.atRest_windowFilled (p : Params) {o : Ctl} (h : o.AtRest) (x0 y0 x1 y1 : Word16) (px : List Word16) :
    (o.windowFilled p x0 y0 x1 y1 px).AtRest :=
  ⟨h.1, rfl, rfl⟩

/-- A controller with the window set takes data bytes as its pixels. -/
theorem Ctl.streams_windowSet {p : Params} {invert : Bool} {o : Ctl} (hinit : o.Initialized p invert)
    (hrest : o.AtRest) (x0 y0 x1 y1 : Word16) :
    ({ o.windowSet p x0 y0 x1 y1 with cs := .known p.csActive, dc := .known .high } : Ctl).Streams p x0 y0 x1 y1 := by
  obtain ⟨hbad, hdone, hrst, hsleep, -, hcolmod, hmadctl, -⟩ := hinit
  exact ⟨⟨hbad, rfl, rfl, hdone, hrst, hrest.1⟩, rfl, rfl, hcolmod, hmadctl, hsleep, rfl, rfl, rfl, rfl⟩

/-- The pixels of a data transaction after SET_WINDOW are written from the window's start on. -/
theorem Ctl.run_windowSet_pixels {p : Params} {invert : Bool} {o : Ctl} (hinit : o.Initialized p invert)
    (hrest : o.AtRest) {x0 y0 x1 y1 : Word16} (hw : WindowOk x0 y0 x1 y1) {px : List Word16}
    (hlen : px.length ≤ windowCells x0 y0 x1 y1) :
    (o.windowSet p x0 y0 x1 y1).run p (txn p .high (px.flatMap enc16)) = o.windowFilled p x0 y0 x1 y1 px := by
  have hstart : (o.windowSet p x0 y0 x1 y1).cursorAt x0 x1 y0 0 = o.windowSet p x0 y0 x1 y1 := by
    simp [Ctl.cursorAt, Ctl.windowSet, windowCol, windowRow]
  have hrun := Ctl.run_pixels_txn hw (n := 0) (px := px) (o := o.windowSet p x0 y0 x1 y1)
    (Ctl.streams_windowSet hinit hrest x0 y0 x1 y1) (by omega)
  rw [hstart, Nat.zero_add] at hrun
  exact hrun

/-- A whole pixel sent past the window's end breaks the controller (44_controller.md R158). -/
theorem Ctl.run_pixel_past_end {p : Params} {o : Ctl} (h : (o.inData p).Listens p) (hcmd : o.cmd = .cmd .ramwr)
    (hhalf : o.half = .known none) {ye : Word16} {cy : Nat} (hye : o.ye = .known ye) (hcy : o.cy = .known cy)
    (hpast : ye.toNat < cy) (v : Word16) : (o.run p (txn p .high (enc16 v))).bad = true := by
  have hhigh : (o.inData p).event p (.tx (hiByte v)) =
      { o.inData p with half := .known (some (hiByte v)) } := by
    rw [Ctl.event_tx_of_listens h, Ctl.dataByte_first (o := o.inData p) hcmd hhalf]
  have hlow : ({ o.inData p with half := .known (some (hiByte v)) } : Ctl).event p (.tx (loByte v)) =
      Ctl.broken := by
    rw [Ctl.event_tx_of_listens (o := { o.inData p with half := .known (some (hiByte v)) }) h,
      Ctl.dataByte_second (o := { o.inData p with half := .known (some (hiByte v)) }) hcmd rfl]
    exact Ctl.pixel_past_end (o := { o.inData p with half := .known none }) hye hcy hpast _
  rw [Ctl.run_data_txn (o := o) h.1, enc16, Ctl.receiveAll_cons, hhigh, Ctl.receiveAll_cons, hlow]
  rfl

/-- One pixel more than the window has cells breaks the controller. -/
theorem Ctl.run_pixel_beyond_window {p : Params} {invert : Bool} {o : Ctl} (hinit : o.Initialized p invert)
    (hrest : o.AtRest) {x0 y0 x1 y1 : Word16} (hw : WindowOk x0 y0 x1 y1) {px : List Word16}
    (hlen : px.length = windowCells x0 y0 x1 y1) (more : Word16) :
    ((o.windowFilled p x0 y0 x1 y1 px).run p (txn p .high (enc16 more))).bad = true := by
  obtain ⟨hbad, hdone, hrst, -⟩ := hinit
  have hbelow : y1.toNat < windowRow x0 x1 y0 px.length := by
    rw [hlen, windowRow_windowCells x0 x1 hw.2.2.1]
    exact Nat.lt_succ_self _
  exact Ctl.run_pixel_past_end (o := o.windowFilled p x0 y0 x1 y1 px) ⟨hbad, rfl, rfl, hdone, hrst, hrest.1⟩ rfl rfl
    rfl rfl hbelow more

/-! The clipped rectangle as a window (43_drawing.md R127). -/

/-- The window of a clipped rectangle is on the panel, has the rectangle's cells, and is what the panel has of the
request's own rectangle. -/
theorem clipRect_window {x y w h : Word16} {q : Clip} (hq : clipRect x y w h = some q) :
    ∃ x1 y1 : Word16, x1 = BitVec.ofNat 16 (q.x + q.cw - 1) ∧ y1 = BitVec.ofNat 16 (q.y + q.ch - 1) ∧
      WindowOk x y x1 y1 ∧ q.cw * q.ch = windowCells x y x1 y1 ∧
      ∀ c r, c < 240 → r < 320 →
        ((x.toNat ≤ c ∧ c < x.toNat + w.toNat ∧ y.toNat ≤ r ∧ r < y.toNat + h.toNat) ↔
          (x.toNat ≤ c ∧ c ≤ x1.toNat ∧ y.toNat ≤ r ∧ r ≤ y1.toNat)) := by
  have hclip := clipRect_eq x y w h
  split at hclip
  next => simp [hq] at hclip
  next hyes =>
    rw [hq, Option.some.injEq] at hclip
    have hw : w.toNat ≠ 0 := fun he => hyes (.inr (.inr (.inl (BitVec.eq_of_toNat_eq he))))
    have hh : h.toNat ≠ 0 := fun he => hyes (.inr (.inr (.inr (BitVec.eq_of_toNat_eq he))))
    subst hclip
    have hx1 : (BitVec.ofNat 16 (x.toNat + min w.toNat (240 - x.toNat) - 1)).toNat =
        x.toNat + min w.toNat (240 - x.toNat) - 1 := by
      rw [BitVec.toNat_ofNat]
      omega
    have hy1 : (BitVec.ofNat 16 (y.toNat + min h.toNat (320 - y.toNat) - 1)).toNat =
        y.toNat + min h.toNat (320 - y.toNat) - 1 := by
      rw [BitVec.toNat_ofNat]
      omega
    refine ⟨_, _, rfl, rfl, ?_, ?_, fun c r hc hr => ?_⟩
    · simp only [WindowOk, hx1, hy1, panelWidth, panelHeight]
      omega
    · simp only [windowCells, windowWidth, hx1, hy1]
      congr 1 <;> omega
    · simp only [hx1, hy1]
      omega

/-- A request clipped away has no cell on the panel (43_drawing.md R128). -/
theorem clipRect_none_misses {x y w h : Word16} (hq : clipRect x y w h = none) {c r : Nat} (hc : c < 240)
    (hr : r < 320) : ¬(x.toNat ≤ c ∧ c < x.toNat + w.toNat ∧ y.toNat ≤ r ∧ r < y.toNat + h.toNat) := by
  have hclip := clipRect_eq x y w h
  have hzero : (0 : Word16).toNat = 0 := rfl
  split at hclip
  next hno => rcases hno with hx | hy | rfl | rfl <;> omega
  next => simp [hq] at hclip

/-- FILL_RECT sent to a controller initialized and at rest leaves it so and writes its rectangle's cells alone
(44_controller.md R164). -/
theorem Ctl.run_fillRectTrace {p : Params} (hd : p.cmds.Distinct) {invert : Bool} {o : Ctl}
    (hinit : o.Initialized p invert) (hrest : o.AtRest) (x y w h color : Word16) :
    (o.run p (fillRectTrace p x y w h color)).Initialized p invert ∧
      (o.run p (fillRectTrace p x y w h color)).AtRest ∧
      ∀ c r, c < 240 → r < 320 → (o.run p (fillRectTrace p x y w h color)).fb.cell c r =
        if x.toNat ≤ c ∧ c < x.toNat + w.toNat ∧ y.toNat ≤ r ∧ r < y.toNat + h.toNat then .known color
        else o.fb.cell c r := by
  cases hq : clipRect x y w h with
  | none =>
    rw [fillRectTrace_of_none hq, Ctl.run_nil]
    exact ⟨hinit, hrest, fun c r hc hr => (if_neg (clipRect_none_misses hq hc hr)).symm⟩
  | some q =>
    obtain ⟨x1, y1, hx1, hy1, hw, hcells, hinside⟩ := clipRect_window hq
    rw [fillRectTrace_of_some hq, ← hx1, ← hy1, hcells, pixelBytes_eq_flatMap, Ctl.run_append,
      Ctl.run_setWindowTrace hd (Ctl.accepts_of_initialized hinit hrest), if_pos hw,
      Ctl.run_windowSet_pixels hinit hrest hw (by simp)]
    refine ⟨Ctl.initialized_windowFilled hinit x y x1 y1 _, Ctl.atRest_windowFilled p hrest x y x1 y1 _,
      fun c r hc hr => ?_⟩
    rw [if_congr (hinside c r hc hr) rfl rfl]
    split
    next hin =>
      obtain ⟨hc0, hc1, hr0, hr1⟩ := hin
      exact Memory.cell_storePixels_replicate hw o.fb color hc0 hc1 hr0 hr1
    next hout => exact Memory.cell_storePixels_outside hw (by simp) o.fb hout

/-! The instructions on an idle machine. -/

theorem exec_writeDataBuf {s : State} (hidle : s.seq = .idle) (hh : s.hang = none) {bytes : List Byte}
    (hne : bytes ≠ []) : exec (.writeDataBuf bytes) s = .next (s.afterTxns .high (txn s.par .high bytes)) :=
  (if_neg hne).trans (whenIdle_perform_txn (i := .writeDataBuf bytes) rfl hidle hh rfl)

/-- PIXEL_STREAM is WRITE_DATA_BUF of its equal pixels. -/
theorem exec_pixelStream_eq {s : State} (hidle : s.seq = .idle) (hh : s.hang = none) (color : Word16) {n : Nat}
    (hn : n ≠ 0) (hne : (List.replicate n color).flatMap enc16 ≠ []) :
    exec (.pixelStream (hiByte color) (loByte color) n) s =
      exec (.writeDataBuf ((List.replicate n color).flatMap enc16)) s := by
  rw [exec_writeDataBuf hidle hh hne, ← pixelBytes_eq_flatMap]
  exact (if_neg hn).trans
    (whenIdle_perform_txn (i := .pixelStream (hiByte color) (loByte color) n) rfl hidle hh rfl)

theorem exec_setWindow {s : State} (hidle : s.seq = .idle) (hh : s.hang = none) (x0 y0 x1 y1 : Word16) :
    exec (.setWindow x0 y0 x1 y1) s = .next (s.afterTxns .low (setWindowTrace s.par x0 y0 x1 y1)) := by
  rw [setWindowTrace_eq_listing s.par s.cfg]
  exact (setWindowProgramsColumnsThenRows s x0 y0 x1 y1).1 hidle hh

/-- SET_WINDOW of a window on the panel sets it in a controller initialized and at rest. -/
theorem exec_setWindow_sets {s : State} (hidle : s.seq = .idle) (hh : s.hang = none) (hd : s.par.cmds.Distinct)
    {invert : Bool} (hinit : s.ctl.Initialized s.par invert) (hrest : s.ctl.AtRest) {x0 y0 x1 y1 : Word16}
    (hw : WindowOk x0 y0 x1 y1) :
    ∃ t, exec (.setWindow x0 y0 x1 y1) s = .next t ∧ t.seq = .idle ∧ t.hang = none ∧ t.par = s.par ∧
      t.ctl = s.ctl.windowSet s.par x0 y0 x1 y1 :=
  ⟨_, exec_setWindow hidle hh x0 y0 x1 y1, hidle, hh, rfl,
    (Ctl.run_setWindowTrace hd (Ctl.accepts_of_initialized hinit hrest) x0 y0 x1 y1).trans (if_pos hw)⟩

/-- WRITE_DATA_BUF shows the controller its transaction. -/
theorem exec_writeDataBuf_runs {s : State} (hidle : s.seq = .idle) (hh : s.hang = none) {bytes : List Byte}
    (hne : bytes ≠ []) :
    ∃ t, exec (.writeDataBuf bytes) s = .next t ∧ t.seq = .idle ∧ t.hang = none ∧ t.par = s.par ∧
      t.ctl = s.ctl.run s.par (txn s.par .high bytes) :=
  ⟨_, exec_writeDataBuf hidle hh hne, hidle, hh, rfl, rfl⟩

/-- A drawing request on a fresh READY block marks nothing and shows the controller its trace. -/
theorem exec_drawing_ready {i : Instr} (hi : i.isDrawing = true) {s : State} (hs : s.Fresh) (hdrv : s.drv = .ready) :
    ∃ t, exec i s = .next t ∧ t.par = s.par ∧ t.cfg = s.cfg ∧ t.ub = s.ub ∧
      t.ctl = s.ctl.run s.par (traceOf s.par s.cfg i) := by
  refine ⟨_, exec_drawing_of_fresh hi hs, ?_⟩
  simp [drawEntry, hdrv, State.ub]

/-- FILL_RECT on a machine initialized and at rest (44_controller.md R164). -/
theorem exec_fillRect_fills {s : State} (hp : s.Premises) (hdrv : s.drv = .ready)
    (hinit : s.ctl.Initialized s.par s.cfg.invert) (hrest : s.ctl.AtRest) (x y w h color : Word16) :
    ∃ t, exec (.fillRect x y w h color) s = .next t ∧ t.ub = false ∧ t.ctl.Initialized t.par t.cfg.invert ∧
      t.ctl.AtRest ∧ ∀ c r, c < 240 → r < 320 → t.ctl.fb.cell c r =
        if x.toNat ≤ c ∧ c < x.toNat + w.toNat ∧ y.toNat ≤ r ∧ r < y.toNat + h.toNat then .known color
        else s.ctl.fb.cell c r := by
  obtain ⟨hfresh, hub, -, hpar, -, -⟩ := hp
  obtain ⟨t, hx, htpar, htcfg, htub, htctl⟩ := exec_drawing_ready (i := .fillRect x y w h color) rfl hfresh hdrv
  refine ⟨t, hx, htub.trans hub, ?_⟩
  rw [htpar, htcfg, htctl]
  exact Ctl.run_fillRectTrace hpar.1 hinit hrest x y w h color

end Sys2Proof.Machine

open Sys2Proof Sys2Proof.Machine

/-- Settles O53: FILL_SCREEN is FILL_RECT of the panel and DRAW_PIXEL of one cell, and FILL_RECT's stream is exactly
its window's. -/
theorem drawingWritesItsRectangleAlone : Obligations.DrawingWritesItsRectangleAlone := by
  intro s x y w h color hp hdrv hinit hrest
  have fills := exec_fillRect_fills hp hdrv hinit hrest
  have hh : s.hang = none := hp.1.2.2
  have hscreen : exec (.fillScreen color) s = exec (.fillRect 0 0 240 320 color) s :=
    exec_drawing_congr rfl rfl hh (fillScreenTrace_eq_fillRectTrace s.par color)
  have hpixel : exec (.drawPixel x y color) s = exec (.fillRect x y 1 1 color) s :=
    exec_drawing_congr rfl rfl hh (drawPixelTrace_eq_fillRectTrace s.par x y color)
  refine ⟨fills x y w h color, ?screen, ?pixel⟩
  case screen =>
    obtain ⟨t, hx, hub, htinit, htrest, hcells⟩ := fills 0 0 240 320 color
    refine ⟨t, hscreen.trans hx, hub, htinit, htrest, fun c r hc hr => (hcells c r hc hr).trans (if_pos ?_)⟩
    exact ⟨Nat.zero_le c, hc, Nat.zero_le r, hr⟩
  case pixel =>
    obtain ⟨t, hx, hub, htinit, htrest, hcells⟩ := fills x y 1 1 color
    refine ⟨t, hpixel.trans hx, hub, htinit, htrest, fun c r hc hr =>
      (hcells c r hc hr).trans (if_congr ?_ rfl rfl)⟩
    have hone : (1 : Word16).toNat = 1 := rfl
    omega

/-- Settles O54: the window is set, its whole stream fills it from its start on, and the next pixel is past its end. -/
theorem windowIsCoveredExactly : Obligations.WindowIsCoveredExactly := by
  intro s x0 y0 x1 y1 more px hp hinit hrest hw hlen
  obtain ⟨⟨hidle, -, hh⟩, -, -, hpar, -, hbad⟩ := hp
  have hcells : px.length = windowCells x0 y0 x1 y1 := hlen
  have hpx : px.length ≠ 0 := hlen ▸ Nat.succ_ne_zero _
  have hbytes : px.flatMap enc16 ≠ [] := by
    rw [← List.length_pos_iff, length_flatMap_enc16]
    omega
  obtain ⟨t, htx, htidle, hth, htpar, htctl⟩ := exec_setWindow_sets hidle hh hpar.1 hinit hrest hw
  obtain ⟨u, hux, huidle, huh, hupar, huctl⟩ := exec_writeDataBuf_runs htidle hth hbytes
  obtain ⟨v, hvx, -, -, -, hvctl⟩ := exec_writeDataBuf_runs huidle huh (List.cons_ne_nil (hiByte more) [loByte more])
  rw [htctl, htpar, Ctl.run_windowSet_pixels hinit hrest hw hcells.le] at huctl
  rw [huctl, hupar, htpar] at hvctl
  refine ⟨t, u, v, htx, hux, hvx, fun color hcolor => ?stream, ?_⟩
  case stream =>
    have hstream := exec_pixelStream_eq htidle hth color hpx (hcolor ▸ hbytes)
    rw [← hcolor] at hstream
    exact hstream.trans hux
  rw [huctl, hvctl]
  refine ⟨hbad, ?row, Ctl.run_pixel_beyond_window hinit hrest hw hcells more, fun i v hv => ?inside,
    fun c r hout => Memory.cell_storePixels_outside hw hcells.le s.ctl.fb hout⟩
  case row => exact congrArg Known.known (hcells ▸ windowRow_windowCells x0 x1 hw.2.2.1)
  case inside =>
    have hcell := Memory.cell_storePixels hw (n := 0) (by omega) s.ctl.fb hv
    rwa [Nat.zero_add] at hcell

/-- Settles O55: an initialized controller's inversion state is the configured one. -/
theorem panelShowsTheColour : Obligations.PanelShowsTheColour := by
  intro visible s x y v _ hinit _ _ hcell
  have shows (f : OnOff → Word16 → Rgb565) :
      s.panelShowsOn f x y = .known (f (if s.cfg.invert = true then .on else .off) v) := by
    have ⟨_, _, _, _, _, _, _, hinv⟩ := hinit
    rw [State.panelShowsOn, if_pos hinit, hinv, hcell]
    rfl
  exact ⟨shows visible, shows Config.visible, fun hright => (shows visible).trans (congrArg Known.known (hright v))⟩

end


section
/-! PROOF. A run: request words taken one a step until none is left or one does not decode. -/

namespace Sys2Proof.Machine

theorem run_succ_of_next {s t : State} (h : step s = .next t) (n : Nat) : core.run (n + 1) s = core.run n t := by
  have hstep : core.step s = .next t := h
  simp only [Host.Core.run, hstep]

theorem run_succ_of_refused {s : State} {r : Refusal} (h : step s = .refused r) (n : Nat) :
    core.run (n + 1) s = .refused r := by
  have hstep : core.step s = .refused r := h
  simp only [Host.Core.run, hstep]

/-- A fresh machine refuses no well-formed request (60_exceptions.md R170). -/
theorem exec_request_of_fresh {i : Instr} (hi : i.isRequest = true) (hwf : i.wf = true) {s : State} (hs : s.Fresh) :
    exec i s = .next (perform i s) := by
  cases i with
  | construct => exact whenIdle_of_idle hs.1 _
  | init r => exact (if_neg (bne_iff_ne.1 hwf)).trans (whenConstructed_of_fresh hs _)
  | fillScreen | fillRect | drawPixel => exact whenConstructed_of_fresh hs _
  | _ => cases hi

/-- An operation performed leaves a fresh machine fresh: it ends at IDLE, and no operation undoes a CONSTRUCT. -/
theorem perform_fresh (i : Instr) {s : State} (hs : s.Fresh) : (perform i s).Fresh := by
  obtain ⟨-, hc, hh⟩ := hs
  have hcon : (perform i s).constructed = true := ((perform_advances i s).marks (by simpa using hc)).2
  refine ⟨?idle, hcon, ?hang⟩ <;> rw [perform_completes i hh]
  case idle => exact finish_seq i _
  case hang => rw [finish_hang, emitAll_hang_none _ (by simp [hh])]

/-- A fresh machine takes a request word that decodes, in one step and whole (Log 1). -/
theorem step_request_of_fresh {s : State} (hs : s.Fresh) {q : RequestWord} {rest : List Presented}
    (hin : s.inbox = .request q :: rest) {i : Instr} (hd : decodeRequest q = .ok i) :
    ∃ t, step s = .next t ∧ t.Fresh ∧ t.inbox = rest := by
  obtain ⟨hreq, hwf, -⟩ := encode_of_decodeRequest s.par.cmds hd
  have hs' : State.Fresh { s with inbox := rest } := hs
  have hstep := (step_of_decoded hs.1 hin hd).trans (exec_request_of_fresh hreq hwf hs')
  exact ⟨_, hstep, perform_fresh i hs', by simpa [leftover] using (step_takes hstep hs.1 hin hd).inbox⟩

/-- As many steps as decodable words bring a fresh machine to what stands after them (60_exceptions.md R182). -/
theorem run_requests {qs : List RequestWord} (hdec : ∀ q ∈ qs, ∃ i, decodeRequest q = .ok i) {s : State}
    (hs : s.Fresh) {rest : List Presented} (hin : s.inbox = qs.map .request ++ rest) (n : Nat) :
    ∃ t, t.Fresh ∧ t.inbox = rest ∧ core.run (n + qs.length) s = core.run n t := by
  induction qs generalizing s with
  | nil => exact ⟨s, hs, hin, rfl⟩
  | cons q qs ih =>
    obtain ⟨⟨i, hd⟩, hdec⟩ := List.forall_mem_cons.1 hdec
    obtain ⟨u, hstep, hu, huin⟩ := step_request_of_fresh hs hin hd
    obtain ⟨t, ht, htin, hrun⟩ := ih hdec hu huin
    exact ⟨t, ht, htin, (run_succ_of_next hstep _).trans hrun⟩

/-- A run's first step takes its CONSTRUCT and makes the machine fresh (60_exceptions.md R182). -/
theorem step_construct_first {s : State} (hidle : s.seq = .idle) (hh : s.hang = none) {first : RequestWord}
    {rest : List Presented} (hin : s.inbox = .request first :: rest) {cs dc rst sck mosi : LineId} {v : Bool}
    (hd : decodeRequest first = .ok (.construct cs dc rst sck mosi v)) :
    ∃ t, step s = .next t ∧ t.Fresh ∧ t.inbox = rest :=
  ⟨_, (step_of_decoded hidle hin hd).trans (whenIdle_of_idle hidle _), ⟨rfl, rfl, hh⟩, rfl⟩

end Sys2Proof.Machine

open Sys2Proof Sys2Proof.Machine

/-- Settles O19: after its CONSTRUCT the machine is fresh, and every word that decodes keeps it so in one step. -/
theorem runsEnd : Obligations.RunsEnd := by
  rintro s first ws hidle hh hin ⟨cs, dc, rst, sck, mosi, v, hfirst⟩
  have hload : (s.load (first :: ws)).inbox = .request first :: ws.map .request := by simp [hin]
  obtain ⟨t, hstep, ht, htin⟩ := step_construct_first (s := s.load (first :: ws)) hidle hh hload hfirst
  refine ⟨fun hdec => ?ends, fun pre q post e hws hdec he => ?refused⟩
  case ends =>
    obtain ⟨u, ⟨huidle, huc, -⟩, huin, hrun⟩ := run_requests hdec ht (rest := []) (by simp [htin]) 0
    rw [Nat.zero_add] at hrun
    exact ⟨u, (run_succ_of_next hstep _).trans hrun, huc, huidle, huin⟩
  case refused =>
    obtain ⟨u, ⟨huidle, -⟩, huin, hrun⟩ :=
      run_requests hdec ht (rest := .request q :: post.map .request) (by simp [htin, hws]) 1
    rw [Nat.add_comm] at hrun
    calc core.run (pre.length + 2) (s.load (first :: ws))
      _ = core.run (pre.length + 1) t := run_succ_of_next hstep _
      _ = core.run 1 u := hrun
      _ = .refused (refusalOf e) := run_succ_of_refused (step_of_undecoded huidle huin he) 0

end


section
/-! PROOF. A port that never completes (70_reset_and_hazards.md R199): the sequencer stops at its event and waits
there. -/

namespace Sys2Proof.Machine

theorem State.held_iff {s : State} : s.held = true ↔ s.hang = some 0 := by
  simp [State.held]

theorem State.held_of_hang_succ {s : State} {n : Nat} (h : s.hang = some (n + 1)) : s.held = false := by
  simp [State.held, h]

/-- Each event performed is one port completion less before a hang (Log 4). -/
@[simp] theorem emitAll_hang (es : List Event) (s : State) :
    (emitAll es s).hang = s.hang.map (· - es.length) := by
  induction es generalizing s with
  | nil => simp [emitAll]
  | cons e es ih => simp [emitAll, ih, Function.comp_def, Nat.sub_sub, Nat.add_comm]

/-- The sequencer's step at an event whose port never completes changes nothing. -/
theorem tick_of_held {s : State} {i : Instr} {k : Nat} (h : s.seq = .busy i k)
    (hk : k < (traceOf s.par s.cfg i).length) (hh : s.held = true) : tick s = s := by
  rcases tick_busy h with ⟨hd, -⟩ | ⟨-, -, ht⟩ | ⟨_, -, hn, -⟩ | ⟨_, _, _, -, hn, -⟩
  · exact absurd (List.drop_eq_nil_iff.1 hd) (Nat.not_le.2 hk)
  · exact ht
  · simp [hh] at hn
  · simp [hh] at hn

/-- A machine whose step changes nothing stays as it is for any number of steps. -/
theorem run_of_step_self {s : State} (h : step s = .next s) (n : Nat) : core.run n s = .next s := by
  induction n with
  | zero => rfl
  | succ n ih => exact (run_succ_of_next h n).trans ih

/-- With a port that completes `n` more events, more events than that are performed up to event `n` and no
further. -/
theorem drain_stops (i : Instr) (es : List Event) (k : Nat) {n : Nat} {s : State} (hh : s.hang = some n)
    (hn : n < es.length) : drain i es k s = { emitAll (es.take n) s with seq := .busy i (k + n) } := by
  induction es generalizing k n s with
  | nil => simp at hn
  | cons e es ih =>
    cases n with
    | zero => exact if_pos (State.held_iff.2 hh)
    | succ n =>
      have hrest := ih (k + 1) (s := emit e s) (by simp [hh]) (Nat.lt_of_succ_lt_succ hn)
      simpa [drain, State.held_of_hang_succ hh, emitAll, Nat.add_assoc, Nat.add_comm 1 n] using hrest

/-- An operation with more events than its port completes stops at the event that is not completed. -/
theorem perform_stops (i : Instr) {s : State} {n : Nat} (hh : s.hang = some n)
    (hn : n < (traceOf s.par s.cfg i).length) :
    perform i s = { emitAll ((traceOf s.par s.cfg i).take n) (entryMarks i s) with seq := .busy i n } := by
  have hstop := drain_stops i _ 0 (s := entryMarks i s) (by simp [hh]) hn
  rwa [Nat.zero_add] at hstop

end Sys2Proof.Machine

open Sys2Proof Sys2Proof.Machine

/-- Settles O11: each step is the sequencer's step at a held event, which changes nothing. -/
theorem heldPortHoldsTheBlock : Obligations.HeldPortHoldsTheBlock := by
  intro s i k hbusy hk hh
  have htick := tick_of_held hbusy hk (State.held_iff.2 hh)
  exact run_of_step_self ((step_of_busy hbusy).trans (congrArg Host.Outcome.next htick))

/-- Settles O12: the operation is performed up to event `n`, which uses up the port's completions. -/
theorem hangStopsAnOperationMidTrace : Obligations.HangStopsAnOperationMidTrace := by
  intro i s t n hh hn hx
  obtain ⟨-, rfl⟩ := exec_next hx
  rw [perform_stops i hh hn]
  exact ⟨rfl, by simp, by simp [hh, Nat.min_eq_left hn.le]⟩

end
